-- ==== Sys2Proof/Word.lean ====
section
/-! DEFINITION. The bit patterns the spec names: the 32-bit register value (00_scope.md R9), the byte of
a bus (00_scope.md R14, host side only) and the 42-bit canonical transaction word (30_encoding.md R48). -/

namespace Sys2Proof

/-- A register value, `u32` (00_scope.md R9). -/
abbrev Word := BitVec 32

/-- A byte of bus data; the core itself has no byte lanes (20_memory.md R40). -/
abbrev Byte := BitVec 8

/-- The canonical transaction word (30_encoding.md R48). -/
abbrev TxWord := BitVec 42

end Sys2Proof
end

