-- ==== Sys2Proof/Machine/Params.lean ====
section
/-! DEFINITION. The literals the spec gives (00_scope.md R10, R11, R12), each under its own name, since the
source's numeric literals are unaudited (93_implementation_defined.md I1). -/

namespace Sys2Proof.Machine

/-- `CHIP_ID` (00_scope.md R11, 92_eei_decisions.md D15). UNVERIFIED: the source's literal is unaudited; log entry 1. -/
def chipId : Word := 0x0000F001

/-- `ENQUEUED_BIT` (00_scope.md R12). -/
def enqueuedBit : Word := 0x00000002

/-- `REGION_SIZE` in bytes (00_scope.md R10). -/
def regionSize : Nat := 0x200

end Sys2Proof.Machine
end

