-- ==== Sys2Proof/Machine/Device.lean ====
section
/-! DEFINITION. DeviceState, the block's whole state (10_state.md R17), and construction (70_reset_and_hazards.md R89). -/

namespace Sys2Proof.Machine

/-- The five fields of the block (10_state.md R17). -/
structure DeviceState where
  /-- The chip identifier (10_state.md R18). -/
  id : Word
  /-- The enable register; bit 0 is chip-enable, bits 31:1 are storage (10_state.md R19). -/
  enableFlags : Word
  /-- The last value written to the command register (10_state.md R20). -/
  commandBuffer : Word
  /-- The interrupt-status register; bit 1 is "a command is enqueued" (10_state.md R21, R22). -/
  statusFlags : Word
  /-- The level of the interrupt output line (10_state.md R23); a field of its own, not a function of `statusFlags` (R24). -/
  interruptAsserted : Bool
  deriving DecidableEq, Repr

/-- Construction, the only reset (70_reset_and_hazards.md R89, R90). -/
def DeviceState.construct : DeviceState where
  id := chipId
  enableFlags := 0x00000000
  commandBuffer := 0x00000000
  statusFlags := 0x00000000
  interruptAsserted := false

end Sys2Proof.Machine
end

