-- ==== Sys2Proof/Config.lean ====
section
/-! DEFINITION. The parameters the source leaves to the platform (00_scope.md R14). None has a value the
spec gives, so each is an opaque constant: nothing can be proved of what it is, and a claim holds whatever it is.
The literals the spec does give (CHIP_ID, ENQUEUED_BIT, REGION_SIZE) are in Sys2Proof/Machine/Params.lean. -/

namespace Sys2Proof

/-- The byte orders a host may use on its bus (`HOST_ENDIAN`, 92_eei_decisions.md D6). DESIGN CHOICE: the spec names no
byte orders; that there are these two and no other is the model's choice (log entry 18). -/
inductive Endian where
  | little
  | big
  deriving DecidableEq, Repr, Inhabited

/-- How a wired reset input asserts: the two ways 00_scope.md R14 names (`RESET_SYNC`, 92_eei_decisions.md D9). -/
inductive ResetSync where
  | synchronous
  | asynchronous
  deriving DecidableEq, Repr, Inhabited

namespace Config

/-- `MMIO_BASE`, the bus address of offset 0 (92_eei_decisions.md D5; log entry 12). That a bus address is an unbounded
natural number is the model's choice (log entry 19). -/
opaque mmioBase : Nat

/-- `HOST_ENDIAN` (92_eei_decisions.md D6; log entries 12 and 18). -/
opaque hostEndian : Endian

/-- `host_wdata_to_u32`: the host's conversion of bus data of some size to the core's value
(92_eei_decisions.md D7; log entry 12). -/
opaque hostWdataToU32 : Endian → List Byte → Nat → Word

/-- `host_rdata_from_u32`: the host's conversion of the core's value to bus data of some size
(92_eei_decisions.md D7; log entry 12). -/
opaque hostRdataFromU32 : Endian → Word → Nat → List Byte

/-- `RESET_SYNC` (92_eei_decisions.md D9; log entry 12). Only the reference port mapping reads it. -/
opaque resetSync : ResetSync

/-- `RESPONSE_LATENCY` in cycles (92_eei_decisions.md D8; log entry 12). Only the reference port mapping reads it. -/
opaque responseLatency : Nat

end Config

end Sys2Proof
end

