-- ==== Sys2Proof/Syntax.lean ====
section
/-! DEFINITION. The instructions: one constructor per row of the opcode map (30_encoding.md R51), with the
operands of R50. A read has no data operand; the two UNKNOWN rows keep the offset, since it is not fixed by the row. -/

namespace Sys2Proof

/-- The ten transactions (30_encoding.md R51). An offset is a bare byte offset, so a natural number (R50);
`WellFormed` bounds it by the region. -/
inductive Instr where
  /-- RD_ID (40_read.md R56). -/
  | rdId
  /-- RD_INIT (40_read.md R57). -/
  | rdInit
  /-- RD_CMD (40_read.md R58). -/
  | rdCmd
  /-- RD_INT_STATUS (40_read.md R59). -/
  | rdIntStatus
  /-- RD_UNKNOWN (40_read.md R60). -/
  | rdUnknown (off : Nat)
  /-- WR_ID (41_write.md R63). -/
  | wrId (value : Word)
  /-- WR_INIT (41_write.md R64). -/
  | wrInit (value : Word)
  /-- WR_CMD (41_write.md R65). -/
  | wrCmd (value : Word)
  /-- WR_INT_STATUS (41_write.md R66). -/
  | wrIntStatus (value : Word)
  /-- WR_UNKNOWN (41_write.md R67). -/
  | wrUnknown (off : Nat) (value : Word)
  deriving DecidableEq, Repr

namespace Instr

/-- The row's mnemonic, as the opcode map spells it (30_encoding.md R51). -/
def mnemonic : Instr → String
  | rdId => "RD_ID"
  | rdInit => "RD_INIT"
  | rdCmd => "RD_CMD"
  | rdIntStatus => "RD_INT_STATUS"
  | rdUnknown _ => "RD_UNKNOWN"
  | wrId _ => "WR_ID"
  | wrInit _ => "WR_INIT"
  | wrCmd _ => "WR_CMD"
  | wrIntStatus _ => "WR_INT_STATUS"
  | wrUnknown _ _ => "WR_UNKNOWN"

/-- The direction bit W of the row: false for a read, true for a write (30_encoding.md R51). -/
def isWrite : Instr → Bool
  | rdId => false
  | rdInit => false
  | rdCmd => false
  | rdIntStatus => false
  | rdUnknown _ => false
  | wrId _ => true
  | wrInit _ => true
  | wrCmd _ => true
  | wrIntStatus _ => true
  | wrUnknown _ _ => true

/-- The offset the transaction carries (30_encoding.md R51). -/
def offset : Instr → Nat
  | rdId => 0x0
  | rdInit => 0x4
  | rdCmd => 0x8
  | rdIntStatus => 0xC
  | rdUnknown off => off
  | wrId _ => 0x0
  | wrInit _ => 0x4
  | wrCmd _ => 0x8
  | wrIntStatus _ => 0xC
  | wrUnknown off _ => off

/-- The DATA field of the canonical word: the value of a write, 0 for a read (30_encoding.md R48). -/
def data : Instr → Word
  | rdId => 0
  | rdInit => 0
  | rdCmd => 0
  | rdIntStatus => 0
  | rdUnknown _ => 0
  | wrId value => value
  | wrInit value => value
  | wrCmd value => value
  | wrIntStatus value => value
  | wrUnknown _ value => value

end Instr

end Sys2Proof
end

