-- ==== Sys2Proof/WellFormed.lean ====
section
/-! DEFINITION. Which terms of `Instr` stand for a canonical transaction word (30_encoding.md R48, R51). Two
checks, both on the UNKNOWN rows: the offset lies in the region (9 bits), and it is none of the four offsets of
the exact rows, which the default rows do not match. -/

namespace Sys2Proof

/-- The four offsets that name a register (20_memory.md R36). -/
def offsetNamesRegister (off : Nat) : Bool :=
  off == 0x0 || off == 0x4 || off == 0x8 || off == 0xC

/-- An offset an UNKNOWN row may carry in a canonical word (30_encoding.md R48, R51). -/
def unknownOffsetOk (off : Nat) : Bool :=
  decide (off < 0x200) && !offsetNamesRegister off

/-- Well-formed: the term is one of the words of 30_encoding.md R48. -/
def Instr.wf : Instr → Bool
  | .rdId => true
  | .rdInit => true
  | .rdCmd => true
  | .rdIntStatus => true
  | .rdUnknown off => unknownOffsetOk off
  | .wrId _ => true
  | .wrInit _ => true
  | .wrCmd _ => true
  | .wrIntStatus _ => true
  | .wrUnknown off _ => unknownOffsetOk off

end Sys2Proof
end

