-- ==== Sys2Proof/Decode.lean ====
section
/-! DEFINITION. The address decoder (20_memory.md R36), the decoder of an access (30_encoding.md R47, R51), the
canonical word's fields (R48, R49), the decoder and the encoder of words, and the opcode map as rows of match and
mask, as opcode_table.json gives it. -/

namespace Sys2Proof

/-- What an offset names (20_memory.md R36). -/
inductive Target where
  | id
  | init
  | cmd
  | intStatus
  | unknown
  deriving DecidableEq, Repr

/-- The address decoder: exact equality, total on every natural number (20_memory.md R36, R37). -/
def decodeOffset (off : Nat) : Target :=
  if off = 0x0 then .id
  else if off = 0x4 then .init
  else if off = 0x8 then .cmd
  else if off = 0xC then .intStatus
  else .unknown

/-- One access the host presents to the core: direction, offset, requested size, and the value of a write
(30_encoding.md R47). -/
inductive Access where
  | read (off size : Nat)
  | write (off size : Nat) (value : Word)
  deriving DecidableEq, Repr

/-- The row an access belongs to (30_encoding.md R51). The size takes no part (20_memory.md R38). -/
def decodeAccess : Access → Instr
  | .read off _ =>
    match decodeOffset off with
    | .id => .rdId
    | .init => .rdInit
    | .cmd => .rdCmd
    | .intStatus => .rdIntStatus
    | .unknown => .rdUnknown off
  | .write off _ value =>
    match decodeOffset off with
    | .id => .wrId value
    | .init => .wrInit value
    | .cmd => .wrCmd value
    | .intStatus => .wrIntStatus value
    | .unknown => .wrUnknown off value

/-- Field W, bit 41 (30_encoding.md R48). -/
def wordDir (w : TxWord) : BitVec 1 := w.extractLsb' 41 1

/-- Field OFF, bits 40:32 (30_encoding.md R48). -/
def wordOff (w : TxWord) : BitVec 9 := w.extractLsb' 32 9

/-- Field DATA, bits 31:0 (30_encoding.md R48). -/
def wordData (w : TxWord) : Word := w.extractLsb' 0 32

/-- The selector SEL = W : OFF, bits 41:32 (30_encoding.md R49). -/
def wordSel (w : TxWord) : BitVec 10 := w.extractLsb' 32 10

/-- A word from its three fields (30_encoding.md R48). -/
def buildWord (dir : BitVec 1) (off : BitVec 9) (data : Word) : TxWord := dir ++ off ++ data

/-- The size the model gives an access that comes as a word, since the word has no size field and no rule reads
the size (30_encoding.md R48; log entry 13). -/
def wordSize : Nat := 4

/-- The access a canonical word spells (30_encoding.md R48, R54). The DATA field of a read is ignored (R48; log entry 6). -/
def accessOfWord (w : TxWord) : Access :=
  if wordDir w = 1 then .write (wordOff w).toNat wordSize (wordData w)
  else .read (wordOff w).toNat wordSize

/-- The decoder of words, total: no encoding is illegal (30_encoding.md R52). -/
def decodeWord (w : TxWord) : Instr := decodeAccess (accessOfWord w)

/-- Why a bit string is no transaction word. -/
inductive DecodeError where
  /-- It has a bit above bit 41: there is one transaction length (30_encoding.md R53; log entry 7). -/
  | widerThanTransaction
  deriving DecidableEq, Repr

/-- The canonical word in a number, if it has no bit above bit 41 (30_encoding.md R48, R53; log entry 7). -/
def txWordOfNat (n : Nat) : Except DecodeError TxWord :=
  if n < 2 ^ 42 then .ok (BitVec.ofNat 42 n) else .error .widerThanTransaction

/-- The decoder on any number. -/
def decodeNat (n : Nat) : Except DecodeError Instr :=
  match txWordOfNat n with
  | .ok w => .ok (decodeWord w)
  | .error e => .error e

/-- The instruction the decoder reads from the `nbits` low bits of `w`, every higher bit being 0. -/
def decodeTableWord (nbits w : Nat) : Option Instr :=
  match decodeNat (w % 2 ^ nbits) with
  | .ok i => some i
  | .error _ => none

/-- The encoder, row by row from the opcode map (30_encoding.md R51) and the word format (R48). -/
def encode : Instr → TxWord
  | .rdId => buildWord 0 0x000 0
  | .rdInit => buildWord 0 0x004 0
  | .rdCmd => buildWord 0 0x008 0
  | .rdIntStatus => buildWord 0 0x00C 0
  | .rdUnknown off => buildWord 0 (BitVec.ofNat 9 off) 0
  | .wrId value => buildWord 1 0x000 value
  | .wrInit value => buildWord 1 0x004 value
  | .wrCmd value => buildWord 1 0x008 value
  | .wrIntStatus value => buildWord 1 0x00C value
  | .wrUnknown off value => buildWord 1 (BitVec.ofNat 9 off) value

/-- A word whose DATA field meets 30_encoding.md R48: any for a write, 0 for a read. -/
def wordCanonical (w : TxWord) : Bool := wordDir w == 1 || wordData w == 0

/-- One row of opcode_table.json: a word matches it when its masked bits are the pattern. -/
structure TableRow where
  mnemonic : String
  pattern : TxWord
  mask : TxWord
  deriving DecidableEq, Repr

/-- The eight exact rows of opcode_table.json (30_encoding.md R51). -/
def exactRows : List TableRow :=
  [⟨"RD_ID", 0x00000000000, 0x3ff00000000⟩,
   ⟨"RD_INIT", 0x00400000000, 0x3ff00000000⟩,
   ⟨"RD_CMD", 0x00800000000, 0x3ff00000000⟩,
   ⟨"RD_INT_STATUS", 0x00c00000000, 0x3ff00000000⟩,
   ⟨"WR_ID", 0x20000000000, 0x3ff00000000⟩,
   ⟨"WR_INIT", 0x20400000000, 0x3ff00000000⟩,
   ⟨"WR_CMD", 0x20800000000, 0x3ff00000000⟩,
   ⟨"WR_INT_STATUS", 0x20c00000000, 0x3ff00000000⟩]

/-- The two default rows of opcode_table.json, tried when no exact row matches (30_encoding.md R51). -/
def defaultRows : List TableRow :=
  [⟨"RD_UNKNOWN", 0x00000000000, 0x20000000000⟩,
   ⟨"WR_UNKNOWN", 0x20000000000, 0x20000000000⟩]

/-- A word matches a row. -/
def rowMatches (w : TxWord) (r : TableRow) : Bool := w &&& r.mask == r.pattern

/-- The rows of the table a word falls under: the exact rows it matches, and where there is none, the default rows
it matches (30_encoding.md R51). -/
def tableLookup (w : TxWord) : List String :=
  match exactRows.filter (rowMatches w) with
  | [] => (defaultRows.filter (rowMatches w)).map TableRow.mnemonic
  | hits => hits.map TableRow.mnemonic

end Sys2Proof
end

