-- ==== Sys2Proof/Machine/HostBus.lean ====
section
/-! DEFINITION. The host side of the bus: how a bus access becomes an access of the core, and how the core's value
becomes bus data. Routing and conversion are the host's (00_scope.md R6); this adapter takes them from the
platform parameters of 00_scope.md R14 and adds nothing. -/

namespace Sys2Proof.Machine

/-- An access on the host's bus: a bus address, a size in bytes, and the bytes of a write. DESIGN CHOICE: the spec gives
the bus no width, and an address here is an unbounded natural number (log entry 19). -/
inductive BusAccess where
  | read (addr size : Nat)
  | write (addr size : Nat) (bytes : List Byte)
  deriving DecidableEq, Repr

/-- The bus address of a bus access. -/
def BusAccess.addr : BusAccess → Nat
  | .read addr _ => addr
  | .write addr _ _ => addr

/-- The address lies in the device's region (20_memory.md R34, R35), which does not wrap (log entry 19). It is asked of
an access's first address only. DESIGN CHOICE: the spec is silent on an access that crosses the region's edge
(log entry 20). -/
def busInRegion (addr : Nat) : Bool :=
  decide (Config.mmioBase ≤ addr) && decide (addr < Config.mmioBase + regionSize)

/-- The access the core receives, with the offset relative to the region's start and the value the host converts;
none outside the region, where the bus access is no transaction of this block (20_memory.md R35; log entry 15).
DESIGN CHOICE: the first address alone decides, whatever the size, so an access that crosses the region's edge reaches
the core whole if it starts inside and not at all if it starts below; none is split (log entry 20). -/
def routeBus (b : BusAccess) : Option Access :=
  if busInRegion b.addr then
    match b with
    | .read addr size => some (.read (addr - Config.mmioBase) size)
    | .write addr size bytes =>
      some (.write (addr - Config.mmioBase) size (Config.hostWdataToU32 Config.hostEndian bytes size))
  else none

/-- The bus data the host makes of a value the core returned (92_eei_decisions.md D7). -/
def busReadData (value : Word) (size : Nat) : List Byte :=
  Config.hostRdataFromU32 Config.hostEndian value size

end Sys2Proof.Machine
end

