-- ==== Sys2Proof/Machine/State.lean ====
section
/-! DEFINITION. The machine's state: DeviceState, which is all the state the block has (10_state.md R17), and
beside it what stands at the block's boundary: what the host has presented and what the block has answered. -/

namespace Sys2Proof.Machine

/-- What the host can do to the block, one at a time (00_scope.md R2, 20_memory.md R43). -/
inductive HostEvent where
  /-- One access, presented to the core (30_encoding.md R47). -/
  | access (a : Access)
  /-- One access on the host's bus, which the host routes (20_memory.md R35). -/
  | bus (b : BusAccess)
  /-- Construction or reconstruction (70_reset_and_hazards.md R89, R90). -/
  | construct
  /-- The platform drives the reset input to a level (92_eei_decisions.md D9). -/
  | resetInput (asserted : Bool)
  /-- An access presented while another is in flight, against the host's contract (92_eei_decisions.md D17). -/
  | overlap (inFlight presented : Access)
  deriving DecidableEq, Repr

/-- The machine's state. -/
structure State where
  /-- The block (10_state.md R17). -/
  device : DeviceState
  /-- What the last host event yielded: some value for a read the core accepted, none for a write and for any event that
  is no accepted access (30_encoding.md R47; log entry 4). -/
  response : Option Word
  /-- How many `TraceDisabledRead` events were emitted (60_exceptions.md R86; log entry 5). -/
  traceEvents : Nat
  /-- The level of the reset input (92_eei_decisions.md D9; log entry 10). -/
  resetInput : Bool
  /-- The host's events not yet taken, oldest first (20_memory.md R43; log entry 2). -/
  pending : List HostEvent
  deriving DecidableEq, Repr

/-- Reasons to stop with a fault: none. The block raises no error (60_exceptions.md R69; log entry 16). -/
inductive Fault
  deriving DecidableEq, Repr

/-- Reasons to refuse. -/
inductive Refusal where
  /-- Raised by `exec`'s arm of an instruction that has no meaning yet; safe. No arm raises it now. -/
  | notModelled (mnemonic : String)
  /-- Raised by `step` on `HostEvent.overlap`: the spec has the model refuse such a run
  (92_eei_decisions.md D17, 93_implementation_defined.md I11; log entry 9); safe. -/
  | overlappingAccesses
  deriving DecidableEq, Repr

/-- The machine right after reset: the block constructed (70_reset_and_hazards.md R89), the line of the reset input
low, and nothing presented (log entries 2, 4, 5, 10). -/
def State.reset : State where
  device := DeviceState.construct
  response := none
  traceEvents := 0
  resetInput := false
  pending := []

end Sys2Proof.Machine
end

