-- ==== Sys2Proof/Machine/Flags.lean ====
section
/-! DEFINITION. The block's three flags (10_state.md R31) and the command/interrupt state machine the spec reads
off them (60_exceptions.md R77, R78). -/

namespace Sys2Proof.Machine

/-- EN, bit 0 of `enableFlags` and no other bit (10_state.md R31, 40_read.md R55). -/
def DeviceState.enabled (d : DeviceState) : Bool := d.enableFlags.getLsbD 0

/-- ENQ, bit 1 of `statusFlags` (10_state.md R31). -/
def DeviceState.enqueued (d : DeviceState) : Bool := d.statusFlags.getLsbD 1

/-- The level of the interrupt output line, as the host observes it between accesses (60_exceptions.md R71, R76). -/
def DeviceState.irqLine (d : DeviceState) : Bool := d.interruptAsserted

/-- The states of the command/interrupt state machine (60_exceptions.md R77). -/
inductive Fsm where
  | idle
  | pending
  | acked
  deriving DecidableEq, Repr

/-- The state machine's state, read off the pair of status and line; none for a pair the spec says no run reaches
(10_state.md R25, 60_exceptions.md R77). -/
def DeviceState.fsm (d : DeviceState) : Option Fsm :=
  if d.statusFlags = 0 ∧ d.interruptAsserted = false then some .idle
  else if d.statusFlags = enqueuedBit ∧ d.interruptAsserted = true then some .pending
  else if d.statusFlags = enqueuedBit ∧ d.interruptAsserted = false then some .acked
  else none

/-- The events of the state machine's transition table (60_exceptions.md R78). -/
inductive FsmEvent where
  | construction
  | commandWrite
  | statusRead
  | other
  deriving DecidableEq, Repr

/-- The event a transaction is to the state machine (60_exceptions.md R78). -/
def fsmEventOf : Instr → FsmEvent
  | .rdId => .other
  | .rdInit => .other
  | .rdCmd => .other
  | .rdIntStatus => .statusRead
  | .rdUnknown _ => .other
  | .wrId _ => .other
  | .wrInit _ => .other
  | .wrCmd _ => .commandWrite
  | .wrIntStatus _ => .other
  | .wrUnknown _ _ => .other

/-- The complete transition table (60_exceptions.md R78); `en` is EN before the event. -/
def fsmNext (en : Bool) (st : Fsm) : FsmEvent → Fsm
  | .construction => .idle
  | .commandWrite => .pending
  | .statusRead =>
    match en, st with
    | true, .idle => .idle
    | true, .pending => .acked
    | true, .acked => .acked
    | false, st => st
  | .other => st

end Sys2Proof.Machine
end

