-- ==== Sys2Proof/Machine/Operands.lean ====
section
/-! DEFINITION. The operand forms (30_encoding.md R50). The one address form is the bare offset, which names a
register's backing field (10_state.md R26); the data operand of a write is taken whole, so it needs no operation of
its own: a meaning gets the 32-bit value as the access carries it, whatever the requested size (20_memory.md R38). -/

namespace Sys2Proof.Machine

/-- The value behind an offset's register, bit for bit; 0 for an offset that names none
(10_state.md R26, 40_read.md R60, R61). -/
def DeviceState.backing (d : DeviceState) : Target → Word
  | .id => d.id
  | .init => d.enableFlags
  | .cmd => d.commandBuffer
  | .intStatus => d.statusFlags
  | .unknown => 0x00000000

end Sys2Proof.Machine
end

