-- ==== Sys2Proof/Machine/Ops.lean ====
section
/-! DEFINITION. The operations the meanings share: what a read and a write do at the boundary, the enable gate, the
two effects on the interrupt line, and construction. The block takes no exception and returns from none
(60_exceptions.md R69, R80, R81), so there is no exception entry; its part of an interrupt is
`DeviceState.enqueueCommand`, which asserts the line, and `DeviceState.deassertLine`. -/

namespace Sys2Proof.Machine

/-- Change the block and nothing at its boundary. -/
def State.mapDevice (f : DeviceState → DeviceState) (s : State) : State := { s with device := f s.device }

/-- A read yields a value (30_encoding.md R47). -/
def State.respond (v : Word) (s : State) : State := { s with response := some v }

/-- A write, or construction, yields nothing (30_encoding.md R47). -/
def State.respondNothing (s : State) : State := { s with response := none }

/-- The diagnostic trace event `TraceDisabledRead`, which carries no payload (60_exceptions.md R86; log entry 5). -/
def State.emitTrace (s : State) : State := { s with traceEvents := s.traceEvents + 1 }

/-- The line goes low, and nothing else changes (40_read.md R59). -/
def DeviceState.deassertLine (d : DeviceState) : DeviceState := { d with interruptAsserted := false }

/-- The value replaces the whole enable register (41_write.md R64). -/
def DeviceState.storeEnable (value : Word) (d : DeviceState) : DeviceState := { d with enableFlags := value }

/-- The command write: the buffer, the status by assignment, and the line (41_write.md R65). -/
def DeviceState.enqueueCommand (value : Word) (d : DeviceState) : DeviceState :=
  { d with commandBuffer := value, statusFlags := enqueuedBit, interruptAsserted := true }

/-- No field changes. -/
def DeviceState.keep (d : DeviceState) : DeviceState := d

/-- A read behind the enable gate (40_read.md R55): disabled, it yields 0 with a trace event and no effect; enabled,
it captures the register's value, and then `after` is the read's effect on the block (60_exceptions.md R79). -/
def gatedRead (t : Target) (after : DeviceState → DeviceState) (s : State) : State :=
  if s.device.enabled then (s.mapDevice after).respond (s.device.backing t)
  else s.emitTrace.respond 0x00000000

/-- A write, which no gate stops (41_write.md R62); `effect` is what it does to the block. -/
def ungatedWrite (effect : DeviceState → DeviceState) (s : State) : State :=
  (s.mapDevice effect).respondNothing

/-- Construction of the block: every field takes its construction value (70_reset_and_hazards.md R89, R91). What
the host has presented, the trace count and the reset input are the host's and stay (log entry 11). -/
def constructDevice (s : State) : State :=
  (s.mapDevice fun _ => DeviceState.construct).respondNothing

/-- The reset input goes to a level; asserting it performs construction (70_reset_and_hazards.md R90,
92_eei_decisions.md D9). It is no access, so it yields nothing. -/
def driveResetInput (asserted : Bool) (s : State) : State :=
  if asserted then constructDevice { s with resetInput := true }
  else State.respondNothing { s with resetInput := false }

end Sys2Proof.Machine
end

