-- ==== Sys2Proof/Machine/Read.lean ====
section
/-! DEFINITION. The meanings of the five read rows (40_read.md R56 to R60). -/

namespace Sys2Proof.Machine

/-- RD_ID (40_read.md R56). -/
def execRdId (s : State) : Host.Outcome State Fault Refusal :=
  .next (gatedRead .id DeviceState.keep s)

/-- RD_INIT (40_read.md R57). -/
def execRdInit (s : State) : Host.Outcome State Fault Refusal :=
  .next (gatedRead .init DeviceState.keep s)

/-- RD_CMD (40_read.md R58). -/
def execRdCmd (s : State) : Host.Outcome State Fault Refusal :=
  .next (gatedRead .cmd DeviceState.keep s)

/-- RD_INT_STATUS: the status is captured, then the line goes low (40_read.md R59). -/
def execRdIntStatus (s : State) : Host.Outcome State Fault Refusal :=
  .next (gatedRead .intStatus DeviceState.deassertLine s)

/-- RD_UNKNOWN: 0 whatever the offset (40_read.md R60). -/
def execRdUnknown (_off : Nat) (s : State) : Host.Outcome State Fault Refusal :=
  .next (gatedRead .unknown DeviceState.keep s)

end Sys2Proof.Machine
end

