-- ==== Sys2Proof/Machine/Write.lean ====
section
/-! DEFINITION. The meanings of the five write rows (41_write.md R63 to R67). -/

namespace Sys2Proof.Machine

/-- WR_ID: ignored (41_write.md R63). -/
def execWrId (_value : Word) (s : State) : Host.Outcome State Fault Refusal :=
  .next (ungatedWrite DeviceState.keep s)

/-- WR_INIT (41_write.md R64). -/
def execWrInit (value : Word) (s : State) : Host.Outcome State Fault Refusal :=
  .next (ungatedWrite (DeviceState.storeEnable value) s)

/-- WR_CMD (41_write.md R65). -/
def execWrCmd (value : Word) (s : State) : Host.Outcome State Fault Refusal :=
  .next (ungatedWrite (DeviceState.enqueueCommand value) s)

/-- WR_INT_STATUS: ignored (41_write.md R66). -/
def execWrIntStatus (_value : Word) (s : State) : Host.Outcome State Fault Refusal :=
  .next (ungatedWrite DeviceState.keep s)

/-- WR_UNKNOWN: ignored (41_write.md R67). -/
def execWrUnknown (_off : Nat) (_value : Word) (s : State) : Host.Outcome State Fault Refusal :=
  .next (ungatedWrite DeviceState.keep s)

end Sys2Proof.Machine
end

