-- ==== Sys2Proof/Machine/Dispatch.lean ====
section
/-! DEFINITION. One arm per instruction, each one call of its meaning. -/

namespace Sys2Proof.Machine

def exec (i : Instr) (s : State) : Host.Outcome State Fault Refusal :=
  match i with
  | .rdId => Sys2Proof.Machine.execRdId s
  | .rdInit => Sys2Proof.Machine.execRdInit s
  | .rdCmd => Sys2Proof.Machine.execRdCmd s
  | .rdIntStatus => Sys2Proof.Machine.execRdIntStatus s
  | .rdUnknown off => Sys2Proof.Machine.execRdUnknown off s
  | .wrId value => Sys2Proof.Machine.execWrId value s
  | .wrInit value => Sys2Proof.Machine.execWrInit value s
  | .wrCmd value => Sys2Proof.Machine.execWrCmd value s
  | .wrIntStatus value => Sys2Proof.Machine.execWrIntStatus value s
  | .wrUnknown off value => Sys2Proof.Machine.execWrUnknown off value s

end Sys2Proof.Machine
end

