-- ==== Sys2Proof/Machine/Accept.lean ====
section
/-! DEFINITION. How one host event acts on the machine, and what an access finds waiting for it. -/

namespace Sys2Proof.Machine

/-- An access the core receives: it runs as its row (00_scope.md R4), unless the reset input is asserted; then it is
not accepted (92_eei_decisions.md D9): it has no effect on the block and yields nothing (log entry 10). -/
def acceptAccess (a : Access) (s : State) : Host.Outcome State Fault Refusal :=
  if s.resetInput then .next s.respondNothing else exec (decodeAccess a) s

/-- One host event. A bus access outside the region is no transaction of this block (20_memory.md R35): it has no
effect on the block and yields nothing (log entry 15). -/
def runEvent (e : HostEvent) (s : State) : Host.Outcome State Fault Refusal :=
  match e with
  | .access a => acceptAccess a s
  | .bus b =>
    match routeBus b with
    | some a => acceptAccess a s
    | none => .next s.respondNothing
  | .construct => .next (constructDevice s)
  | .resetInput asserted => .next (driveResetInput asserted s)
  | .overlap _ _ => .refused .overlappingAccesses

/-- Take the oldest pending event and run it; with nothing pending the machine waits, and nothing changes
(20_memory.md R43, 60_exceptions.md R84; log entries 2 and 3). -/
def takeNext (s : State) : Host.Outcome State Fault Refusal :=
  match s.pending with
  | [] => .next s
  | e :: rest => runEvent e { s with pending := rest }

/-- Present an access ahead of everything pending, with the reset input low, so that the next step runs it
(log entry 2). -/
def presentFirst (a : Access) (s : State) : State :=
  { s with resetInput := false, pending := .access a :: s.pending }

/-- Present the access a table word spells; a number that is no transaction word is presented as nothing
(log entry 7). -/
def presentWord (nbits w : Nat) (s : State) : State :=
  match txWordOfNat (w % 2 ^ nbits) with
  | .ok x => presentFirst (accessOfWord x) s
  | .error _ => s

end Sys2Proof.Machine
end

