-- ==== Sys2Proof/Machine/Step.lean ====
section
/-! DEFINITION. The step: one host event, as one atomic transition (20_memory.md R41). -/

namespace Sys2Proof.Machine

/-- One step (20_memory.md R41, R43). -/
def step (s : State) : Host.Outcome State Fault Refusal := takeNext s

/-- The word's transaction, presented so that the very next step runs it (log entry 2). -/
def State.withFetchWord (s : State) (nbits w : Nat) : State := presentWord nbits w s

end Sys2Proof.Machine
end

