-- ==== Sys2Proof/Machine/Paths.lean ====
section
/-! DEFINITION. The spec's two functions on the block alone, `read` and `write`, as 40_read.md R55 and 41_write.md
R62 write them, over the address decoder. The meanings in Read.lean and Write.lean are row by row; these are one
case split each. The reference port mapping (Ports.lean) is built on them. -/

namespace Sys2Proof.Machine

/-- What `read` returns: the block after it, the value, and whether it emitted `TraceDisabledRead`. -/
structure ReadResult where
  next : DeviceState
  value : Word
  trace : Bool
  deriving DecidableEq, Repr

/-- `read(s, off)` (40_read.md R55): the gate, then the decode. -/
def DeviceState.read (d : DeviceState) (off : Nat) : ReadResult :=
  if d.enableFlags.getLsbD 0 = false then ⟨d, 0x00000000, true⟩
  else
    match decodeOffset off with
    | .id => ⟨d, d.id, false⟩
    | .init => ⟨d, d.enableFlags, false⟩
    | .cmd => ⟨d, d.commandBuffer, false⟩
    | .intStatus => ⟨{ d with interruptAsserted := false }, d.statusFlags, false⟩
    | .unknown => ⟨d, 0x00000000, false⟩

/-- `write(s, off, value)` (41_write.md R62): no gate. -/
def DeviceState.write (d : DeviceState) (off : Nat) (value : Word) : DeviceState :=
  match decodeOffset off with
  | .id => d
  | .init => { d with enableFlags := value }
  | .cmd => { d with commandBuffer := value, statusFlags := enqueuedBit, interruptAsserted := true }
  | .intStatus => d
  | .unknown => d

end Sys2Proof.Machine
end

