-- ==== Sys2Proof/Machine/Ports.lean ====
section
/-! DEFINITION. The reference port mapping (92_eei_decisions.md D8): one clock cycle of a hardware block with the
ports D8 names. No rule of the spec depends on it; the normative machine is `step`. RESET_SYNC and
RESPONSE_LATENCY (00_scope.md R14) act here and nowhere else. -/

namespace Sys2Proof.Machine

/-- The input ports in one cycle (92_eei_decisions.md D8). -/
structure PortIn where
  rst : Bool
  reqValid : Bool
  reqWrite : Bool
  reqOff : BitVec 9
  reqSize : Nat
  reqWdata : Word
  deriving DecidableEq, Repr

/-- The output ports in one cycle. `rspRdata` is none in a cycle that carries no read's data: D8 says nothing of the
port then (log entry 14). -/
structure PortOut where
  rspRdata : Option Word
  irq : Bool
  traceDisabledRead : Bool
  deriving DecidableEq, Repr

/-- The registers: the block, and the responses registered for RESPONSE_LATENCY cycles, oldest first. -/
structure PortState where
  device : DeviceState
  rspPipe : List (Option Word)
  deriving DecidableEq, Repr

/-- After construction, with no response under way (log entry 14). -/
def PortState.reset : PortState where
  device := DeviceState.construct
  rspPipe := List.replicate Config.responseLatency none

/-- The read a cycle accepts, if it accepts one; nothing is accepted while `rst` is asserted (92_eei_decisions.md D8, D9). -/
def PortIn.acceptedRead (p : PortIn) (d : DeviceState) : Option ReadResult :=
  if p.rst || !p.reqValid || p.reqWrite then none else some (d.read p.reqOff.toNat)

/-- The block after the edge that ends the cycle (92_eei_decisions.md D8, D9). The size is ignored. -/
def PortIn.nextDevice (p : PortIn) (d : DeviceState) : DeviceState :=
  if p.rst then DeviceState.construct
  else if !p.reqValid then d
  else if p.reqWrite then d.write p.reqOff.toNat p.reqWdata
  else (d.read p.reqOff.toNat).next

/-- What the block's registers hold within the cycle. 92_eei_decisions.md D9 leaves RESET_SYNC open and says no more of
it. DESIGN CHOICE: an asynchronous reset shows at once, a synchronous one from the edge on (log entry 14). -/
def PortIn.shownDevice (p : PortIn) (d : DeviceState) : DeviceState :=
  if p.rst && Config.resetSync == .asynchronous then DeviceState.construct else d

/-- The read data the cycle produces, from the state before the edge (92_eei_decisions.md D8). -/
def PortIn.producedRdata (p : PortIn) (d : DeviceState) : Option Word :=
  (p.acceptedRead d).map ReadResult.value

/-- One clock cycle (92_eei_decisions.md D8). -/
def portCycle (p : PortIn) (s : PortState) : PortOut × PortState :=
  let pipe := s.rspPipe ++ [p.producedRdata s.device]
  ({ rspRdata := pipe.head?.join
     irq := (p.shownDevice s.device).interruptAsserted
     traceDisabledRead := ((p.acceptedRead s.device).map ReadResult.trace).getD false },
   { device := p.nextDevice s.device, rspPipe := pipe.tail })

/-- Several cycles: the outputs of each, and the state after the last. -/
def portRun : List PortIn → PortState → List PortOut × PortState
  | [], s => ([], s)
  | p :: ps, s =>
    let first := portCycle p s
    let later := portRun ps first.2
    (first.1 :: later.1, later.2)

/-- The read data each of several cycles produces, before any latency. -/
def portProduced : List PortIn → DeviceState → List (Option Word)
  | [], _ => []
  | p :: ps, d => p.producedRdata d :: portProduced ps (p.nextDevice d)

/-- The host events a cycle stands for: the level of the reset input, then the access, if one is requested
(92_eei_decisions.md D8, D9). -/
def PortIn.events (p : PortIn) : List HostEvent :=
  .resetInput p.rst ::
    (if p.reqValid then
      [.access (if p.reqWrite then .write p.reqOff.toNat p.reqSize p.reqWdata
                else .read p.reqOff.toNat p.reqSize)]
    else [])

end Sys2Proof.Machine
end

