-- ==== Sys2Proof/Safety.lean ====
section
/-! DEFINITION. What the claims speak of: the invariant of every reachable state, runs over a list of transactions,
what the history of the transactions says the block holds, and what a host can see of a run. -/

namespace Sys2Proof.Machine

/-- The block's invariant: the identifier is the constant (10_state.md R18), the status is one of its two values
(R22), and the line is high only with the status set (R25). -/
def DeviceState.Inv (d : DeviceState) : Prop :=
  d.id = chipId ∧
  (d.statusFlags = 0x00000000 ∨ d.statusFlags = enqueuedBit) ∧
  (d.interruptAsserted = true → d.statusFlags = enqueuedBit)

/-- The machine's invariant is the block's. -/
def State.Inv (s : State) : Prop := s.device.Inv

/-- A host that keeps its contract: it overlaps no accesses (20_memory.md R43). -/
def serialHost : List HostEvent → Bool
  | [] => true
  | .overlap _ _ :: _ => false
  | _ :: rest => serialHost rest

/-- Transactions one after another, stopping at the first that does not answer a next state. -/
def execAll : List Instr → State → Host.Outcome State Fault Refusal
  | [], s => .next s
  | i :: is, s =>
    match exec i s with
    | .next t => execAll is t
    | .fault r => .fault r
    | .refused r => .refused r

/-- The value a transaction writes to the command register, if it does (30_encoding.md R51). -/
def commandOf : Instr → Option Word
  | .rdId => none
  | .rdInit => none
  | .rdCmd => none
  | .rdIntStatus => none
  | .rdUnknown _ => none
  | .wrId _ => none
  | .wrInit _ => none
  | .wrCmd value => some value
  | .wrIntStatus _ => none
  | .wrUnknown _ _ => none

/-- The value a transaction writes to the enable register, if it does (30_encoding.md R51). -/
def enableOf : Instr → Option Word
  | .rdId => none
  | .rdInit => none
  | .rdCmd => none
  | .rdIntStatus => none
  | .rdUnknown _ => none
  | .wrId _ => none
  | .wrInit value => some value
  | .wrCmd _ => none
  | .wrIntStatus _ => none
  | .wrUnknown _ _ => none

/-- The line after a transaction: high from a command write, low from a status read that passes the gate, else as
before (10_state.md R23). -/
def lineOf (i : Instr) (en : Word) (line : Bool) : Bool :=
  match i with
  | .rdId => line
  | .rdInit => line
  | .rdCmd => line
  | .rdIntStatus => if en.getLsbD 0 then false else line
  | .rdUnknown _ => line
  | .wrId _ => line
  | .wrInit _ => line
  | .wrCmd _ => true
  | .wrIntStatus _ => line
  | .wrUnknown _ _ => line

/-- The value of the last command write in a history, or what stood before it (10_state.md R20, 41_write.md R65). -/
def lastCommand : List Instr → Word → Word
  | [], before => before
  | i :: is, before => lastCommand is ((commandOf i).getD before)

/-- The value of the last enable write in a history, or what stood before it (10_state.md R19, 41_write.md R64). -/
def lastEnable : List Instr → Word → Word
  | [], before => before
  | i :: is, before => lastEnable is ((enableOf i).getD before)

/-- A history holds a command write. -/
def anyCommand (is : List Instr) : Bool := is.any fun i => (commandOf i).isSome

/-- The line after a history (10_state.md R23); `en` is the enable register as the history goes. -/
def lineAfter : List Instr → (en : Word) → (line : Bool) → Bool
  | [], _, line => line
  | i :: is, en, line => lineAfter is ((enableOf i).getD en) (lineOf i en line)

/-- The state machine's state after a history, by its table (60_exceptions.md R78); `en` is the enable register as the
history goes. -/
def fsmAfter : List Instr → (en : Word) → Fsm → Fsm
  | [], _, st => st
  | i :: is, en, st => fsmAfter is ((enableOf i).getD en) (fsmNext (en.getLsbD 0) st (fsmEventOf i))

/-- What a host sees of the next `n` events it has pending: the response after each, until one stops the machine. -/
def responses : Nat → State → List (Option Word)
  | 0, _ => []
  | n + 1, s =>
    match s.pending, step s with
    | [], _ => []
    | _ :: _, .next t => t.response :: responses n t
    | _ :: _, .fault _ => []
    | _ :: _, .refused _ => []

/-- The same machine with the interrupt line at another level. -/
def State.withLine (s : State) (line : Bool) : State :=
  { s with device := { s.device with interruptAsserted := line } }

end Sys2Proof.Machine
end

