-- ==== Sys2Proof/Certificates/Slice0/Obligations.lean ====
section
/-! DEFINITION. The statements for the provers. In every one, `response := some v` is how the model writes "the read
returns v", `response := none` "the write returns nothing" (log entry 4), and `traceEvents + 1` "emit
TraceDisabledRead" (log entry 5). -/

open Sys2Proof Sys2Proof.Machine

/-! ## Construction -/

/-- 70_reset_and_hazards.md R89: the values construction gives, at reset and at every later construction. -/
def Obligations.ConstructionSetsEveryField : Prop :=
  State.reset.device = ⟨0x0000F001#32, 0x00000000#32, 0x00000000#32, 0x00000000#32, false⟩ ∧
  ∀ (s : State) (rest : List HostEvent), s.pending = .construct :: rest →
    ∃ t, step s = .next t ∧
      t.device = ⟨0x0000F001#32, 0x00000000#32, 0x00000000#32, 0x00000000#32, false⟩

/-- 70_reset_and_hazards.md R90: a wired reset input constructs; no transaction resets; writing INIT with 0 only disables. -/
def Obligations.ConstructionIsTheOnlyReset : Prop :=
  (∀ (s : State) (rest : List HostEvent), s.pending = .resetInput true :: rest →
    ∃ t, step s = .next t ∧ t.device = State.reset.device) ∧
  (∀ s : State, exec (.wrInit 0) s =
    .next { s with device := { s.device with enableFlags := 0 }, response := none }) ∧
  (∀ (i : Instr) (s t : State), exec i s = .next t →
    (t.device.statusFlags = 0 → s.device.statusFlags = 0) ∧
    (t.device.commandBuffer ≠ s.device.commandBuffer → i = .wrCmd t.device.commandBuffer))

/-- 70_reset_and_hazards.md R91, its clauses on state: after construction the block is disabled, the line is low, the
state machine is in IDLE, and nothing of the block before it survives. -/
def Obligations.ConstructionLeavesDisabledIdleAndForgets : Prop :=
  ∀ (s t : State) (rest : List HostEvent), s.pending = .construct :: rest → step s = .next t →
    t.device.enabled = false ∧ t.device.irqLine = false ∧ t.device.fsm = some .idle ∧
    ∀ (s2 t2 : State) (rest2 : List HostEvent), s2.pending = .construct :: rest2 → step s2 = .next t2 →
      t2.device = t.device

/-- The invariant holds right after reset (10_state.md R18, R22, R25). -/
def Obligations.ResetSatisfiesTheInvariant : Prop := State.reset.Inv

/-! ## The ten rows -/

/-- 40_read.md R56, RD_ID. -/
def Obligations.ReadIdReturnsTheIdentifier : Prop :=
  (∀ n, decodeAccess (.read 0x0 n) = .rdId) ∧
  encode .rdId = 0x00000000000#42 ∧ decodeWord 0x00000000000#42 = .rdId ∧
  (∀ s : State, s.device.enableFlags.getLsbD 0 = true →
    exec .rdId s = .next { s with response := some s.device.id }) ∧
  (∀ s : State, s.device.enableFlags.getLsbD 0 = false →
    exec .rdId s = .next { s with response := some 0x00000000#32, traceEvents := s.traceEvents + 1 }) ∧
  (∀ (i : Instr) (s t : State), exec i s = .next t → t.device.id = s.device.id) ∧
  State.reset.device.id = 0x0000F001#32

/-- 40_read.md R57, RD_INIT. -/
def Obligations.ReadInitReturnsTheEnableRegister : Prop :=
  (∀ n, decodeAccess (.read 0x4 n) = .rdInit) ∧
  encode .rdInit = 0x00400000000#42 ∧ decodeWord 0x00400000000#42 = .rdInit ∧
  (∀ s : State, s.device.enableFlags.getLsbD 0 = true →
    exec .rdInit s = .next { s with response := some s.device.enableFlags }) ∧
  (∀ s : State, s.device.enableFlags.getLsbD 0 = false →
    exec .rdInit s = .next { s with response := some 0x00000000#32, traceEvents := s.traceEvents + 1 }) ∧
  (∀ (s t : State) (v : Word), s.device.enableFlags.getLsbD 0 = true → exec .rdInit s = .next t →
    t.response = some v → v.getLsbD 0 = true) ∧
  (∀ s t : State, exec (.wrInit 0xFFFFFFFF) s = .next t →
    exec .rdInit t = .next { t with response := some 0xFFFFFFFF#32 })

/-- 40_read.md R58, RD_CMD. -/
def Obligations.ReadCmdReturnsTheCommandBuffer : Prop :=
  (∀ n, decodeAccess (.read 0x8 n) = .rdCmd) ∧
  encode .rdCmd = 0x00800000000#42 ∧ decodeWord 0x00800000000#42 = .rdCmd ∧
  (∀ s : State, s.device.enableFlags.getLsbD 0 = true →
    exec .rdCmd s = .next { s with response := some s.device.commandBuffer }) ∧
  (∀ s : State, s.device.enableFlags.getLsbD 0 = false →
    exec .rdCmd s = .next { s with response := some 0x00000000#32, traceEvents := s.traceEvents + 1 }) ∧
  State.reset.device.commandBuffer = 0x00000000#32 ∧
  (∀ (s t u : State) (v e : Word), e.getLsbD 0 = true →
    exec (.wrCmd v) s = .next t → exec (.wrInit e) t = .next u →
    exec .rdCmd u = .next { u with response := some v })

/-- 40_read.md R59, RD_INT_STATUS. -/
def Obligations.ReadIntStatusAcknowledges : Prop :=
  (∀ n, decodeAccess (.read 0xC n) = .rdIntStatus) ∧
  encode .rdIntStatus = 0x00C00000000#42 ∧ decodeWord 0x00C00000000#42 = .rdIntStatus ∧
  (∀ s : State, s.device.enableFlags.getLsbD 0 = true →
    exec .rdIntStatus s =
      .next { s with device := { s.device with interruptAsserted := false }
                     response := some s.device.statusFlags }) ∧
  (∀ s : State, s.device.enableFlags.getLsbD 0 = false →
    exec .rdIntStatus s = .next { s with response := some 0x00000000#32, traceEvents := s.traceEvents + 1 }) ∧
  (∀ (s : State) (st : Fsm), s.device.enableFlags.getLsbD 0 = true → s.device.fsm = some st →
    ∃ t, exec .rdIntStatus s = .next t ∧
      (st = .idle → t.response = some 0x00000000#32 ∧ t.device = s.device) ∧
      (st = .pending → t.response = some 0x00000002#32 ∧ t.device.fsm = some .acked) ∧
      (st = .acked → t.response = some 0x00000002#32 ∧ t.device = s.device))

/-- 40_read.md R60, RD_UNKNOWN. -/
def Obligations.ReadUnknownReturnsZero : Prop :=
  ∀ off : Nat, off ≠ 0x0 → off ≠ 0x4 → off ≠ 0x8 → off ≠ 0xC →
    (∀ n, decodeAccess (.read off n) = .rdUnknown off) ∧
    (off < 0x200 → encode (.rdUnknown off) = 0#1 ++ BitVec.ofNat 9 off ++ 0x00000000#32 ∧
      decodeWord (0#1 ++ BitVec.ofNat 9 off ++ 0x00000000#32) = .rdUnknown off) ∧
    (∀ s : State, s.device.enableFlags.getLsbD 0 = true →
      exec (.rdUnknown off) s = .next { s with response := some 0x00000000#32 }) ∧
    (∀ s : State, s.device.enableFlags.getLsbD 0 = false →
      exec (.rdUnknown off) s =
        .next { s with response := some 0x00000000#32, traceEvents := s.traceEvents + 1 })

/-- 41_write.md R63, WR_ID. -/
def Obligations.WriteIdIsIgnored : Prop :=
  (∀ n v, decodeAccess (.write 0x0 n v) = .wrId v) ∧
  (∀ v, encode (.wrId v) = 1#1 ++ 0x000#9 ++ v ∧ decodeWord (1#1 ++ 0x000#9 ++ v) = .wrId v) ∧
  (∀ (s : State) (v : Word), exec (.wrId v) s = .next { s with response := none }) ∧
  (∀ (s t : State) (v : Word), s.device.id = 0x0000F001#32 → s.device.enableFlags.getLsbD 0 = true →
    exec (.wrId v) s = .next t → exec .rdId t = .next { t with response := some 0x0000F001#32 })

/-- 41_write.md R64, WR_INIT. -/
def Obligations.WriteInitReplacesTheEnableRegister : Prop :=
  (∀ n v, decodeAccess (.write 0x4 n v) = .wrInit v) ∧
  (∀ v, encode (.wrInit v) = 1#1 ++ 0x004#9 ++ v ∧ decodeWord (1#1 ++ 0x004#9 ++ v) = .wrInit v) ∧
  (∀ (s : State) (v : Word), exec (.wrInit v) s =
    .next { s with device := { s.device with enableFlags := v }, response := none }) ∧
  (∀ (s t : State) (v : Word), exec (.wrInit v) s = .next t → t.device.enabled = v.getLsbD 0) ∧
  (∀ s t : State, exec (.wrInit 0x00000000) s = .next t → t.device.enabled = false) ∧
  (∀ s t : State, exec (.wrInit 0xFFFFFFFE) s = .next t →
    t.device.enabled = false ∧ t.device.enableFlags = 0xFFFFFFFE#32) ∧
  (∀ s t : State, s.device.id = 0x0000F001#32 → exec (.wrInit 0x1) s = .next t →
    exec .rdId t = .next { t with response := some 0x0000F001#32 })

/-- 41_write.md R65, WR_CMD. -/
def Obligations.WriteCmdStoresSetsStatusAndAsserts : Prop :=
  (∀ n v, decodeAccess (.write 0x8 n v) = .wrCmd v) ∧
  (∀ v, encode (.wrCmd v) = 1#1 ++ 0x008#9 ++ v ∧ decodeWord (1#1 ++ 0x008#9 ++ v) = .wrCmd v) ∧
  (∀ (s : State) (v : Word), exec (.wrCmd v) s =
    .next { s with device := { s.device with commandBuffer := v
                                             statusFlags := 0x00000002#32
                                             interruptAsserted := true }
                   response := none }) ∧
  (∀ (s t : State) (v : Word), exec (.wrCmd v) s = .next t → t.device.fsm = some .pending) ∧
  (∀ (s t u : State) (v w : Word), exec (.wrCmd v) s = .next t → exec (.wrCmd w) t = .next u →
    exec (.wrCmd w) s = .next u) ∧
  (∀ (s t u : State) (v : Word), s.device.enabled = false → exec (.wrCmd v) s = .next t →
    exec .rdIntStatus t = .next u → u.response = some 0x00000000#32 ∧ u.device.interruptAsserted = true)

/-- 41_write.md R66, WR_INT_STATUS. -/
def Obligations.WriteIntStatusIsIgnored : Prop :=
  (∀ n v, decodeAccess (.write 0xC n v) = .wrIntStatus v) ∧
  (∀ v, encode (.wrIntStatus v) = 1#1 ++ 0x00C#9 ++ v ∧ decodeWord (1#1 ++ 0x00C#9 ++ v) = .wrIntStatus v) ∧
  (∀ (s : State) (v : Word), exec (.wrIntStatus v) s = .next { s with response := none }) ∧
  (∀ (i : Instr) (s t : State), exec i s = .next t →
    s.device.interruptAsserted = true → t.device.interruptAsserted = false →
    i = .rdIntStatus ∧ s.device.enabled = true) ∧
  (∀ (i : Instr) (s t : State), exec i s = .next t → s.device.enqueued = true → t.device.enqueued = true)

/-- WR_UNKNOWN (41_write.md R67). The last clause also covers a write presented while the reset input is asserted: that it
is then dropped is the model's choice (log entry 10), not R67's. -/
def Obligations.WriteUnknownIsIgnored : Prop :=
  ∀ off : Nat, off ≠ 0x0 → off ≠ 0x4 → off ≠ 0x8 → off ≠ 0xC →
    (∀ n v, decodeAccess (.write off n v) = .wrUnknown off v) ∧
    (off < 0x200 → ∀ v, encode (.wrUnknown off v) = 1#1 ++ BitVec.ofNat 9 off ++ v ∧
      decodeWord (1#1 ++ BitVec.ofNat 9 off ++ v) = .wrUnknown off v) ∧
    (∀ (s : State) (v : Word), exec (.wrUnknown off v) s = .next { s with response := none }) ∧
    (∀ (s : State) (v : Word) (size n : Nat) (rest : List HostEvent), ∃ t,
      step { s with pending := .access (.write off size v) :: rest } = .next t ∧
      responses n t = responses n { s with pending := rest })

/-! ## The read path and the write path -/

/-- 40_read.md R55: the gate first, for every offset, and only then the decode. -/
def Obligations.ReadGatesThenDecodes : Prop :=
  ∀ (off size : Nat) (s : State),
    (s.device.enableFlags.getLsbD 0 = false →
      exec (decodeAccess (.read off size)) s =
        .next { s with response := some 0x00000000#32, traceEvents := s.traceEvents + 1 }) ∧
    (s.device.enableFlags.getLsbD 0 = true →
      exec (decodeAccess (.read off size)) s = .next
        (if off = 0x0 then { s with response := some s.device.id }
         else if off = 0x4 then { s with response := some s.device.enableFlags }
         else if off = 0x8 then { s with response := some s.device.commandBuffer }
         else if off = 0xC then
           { s with device := { s.device with interruptAsserted := false }
                    response := some s.device.statusFlags }
         else { s with response := some 0x00000000#32 })) ∧
    (0xFFFFFFFE#32).getLsbD 0 = false ∧ (0x00000001#32).getLsbD 0 = true

/-- 41_write.md R62: no gate, the decode, and the row's effect. -/
def Obligations.WriteDecodesWithoutGate : Prop :=
  ∀ (off size : Nat) (value : Word) (s : State),
    exec (decodeAccess (.write off size value)) s = .next
      (if off = 0x4 then { s with device := { s.device with enableFlags := value }, response := none }
       else if off = 0x8 then
         { s with device := { s.device with commandBuffer := value
                                            statusFlags := 0x00000002#32
                                            interruptAsserted := true }
                  response := none }
       else { s with response := none })

/-- The row by row meanings are the two functions read and write on the block alone (20_memory.md R44: "two pure
functions"; 40_read.md R55, 41_write.md R62). -/
def Obligations.MeaningsAreTheTwoPureFunctions : Prop :=
  ∀ (off size : Nat) (value : Word) (s : State),
    exec (decodeAccess (.read off size)) s =
      .next { s with device := (s.device.read off).next
                     response := some (s.device.read off).value
                     traceEvents := s.traceEvents + (s.device.read off).trace.toNat } ∧
    exec (decodeAccess (.write off size value)) s =
      .next { s with device := s.device.write off value, response := none }

/-- 40_read.md R61: a read yields a stored pattern or 0, for every state, and never stops. -/
def Obligations.EveryReadYieldsAStoredPatternOrZero : Prop :=
  ∀ (i : Instr) (s : State), i.isWrite = false →
    ∃ t v, exec i s = .next t ∧ t.response = some v ∧
      (v = 0 ∨ v = s.device.id ∨ v = s.device.enableFlags ∨ v = s.device.commandBuffer ∨ v = s.device.statusFlags)

/-- 41_write.md R68: a write stores its operand or the constant, accumulates nothing, and never stops. -/
def Obligations.EveryWriteStoresItsOperandOrTheConstant : Prop :=
  ∀ (i : Instr) (s : State), i.isWrite = true →
    ∃ t, exec i s = .next t ∧ t.response = none ∧
      (t.device.enableFlags = s.device.enableFlags ∨ t.device.enableFlags = i.data) ∧
      (t.device.commandBuffer = s.device.commandBuffer ∨ t.device.commandBuffer = i.data) ∧
      (t.device.statusFlags = s.device.statusFlags ∨ t.device.statusFlags = 0x00000002#32) ∧
      t.device.id = s.device.id

/-- 00_scope.md R16: what each row leaves unchanged in the block. -/
def Obligations.TransactionsChangeOnlyTheFieldsTheirRulesName : Prop :=
  ∀ (i : Instr) (s t : State), exec i s = .next t →
    t.device.id = s.device.id ∧
    (t.device.enableFlags ≠ s.device.enableFlags → ∃ v, i = .wrInit v) ∧
    (t.device.commandBuffer ≠ s.device.commandBuffer → ∃ v, i = .wrCmd v) ∧
    (t.device.statusFlags ≠ s.device.statusFlags → ∃ v, i = .wrCmd v) ∧
    (t.device.interruptAsserted ≠ s.device.interruptAsserted → i = .rdIntStatus ∨ ∃ v, i = .wrCmd v)

/-- 20_memory.md R42: side effects and idempotency of each access. -/
def Obligations.AccessSideEffectsAndIdempotency : Prop :=
  (∀ (i : Instr) (s t : State), exec i s = .next t → i.isWrite = false →
    (i ≠ .rdIntStatus ∨ s.device.enabled = false) → t.device = s.device ∧
      ∀ u, exec i t = .next u → u.device = t.device ∧ u.response = t.response) ∧
  (∀ s t : State, s.device.enabled = true → exec .rdIntStatus s = .next t →
    t.device.interruptAsserted = false ∧
    ∀ u, exec .rdIntStatus t = .next u → u.device = t.device ∧ u.response = t.response) ∧
  (∀ (s t : State) (v : Word), exec (.wrInit v) s = .next t → t.device.enableFlags = v) ∧
  (∀ (s t : State) (v : Word), exec (.wrCmd v) s = .next t →
    t.device.statusFlags = 0x00000002#32 ∧ t.device.interruptAsserted = true ∧
    ∀ u, exec (.wrCmd v) t = .next u → u.device = t.device) ∧
  (∀ (s t : State) (off : Nat) (v : Word),
    (exec (.wrId v) s = .next t ∨ exec (.wrIntStatus v) s = .next t ∨ exec (.wrUnknown off v) s = .next t) →
    t.device = s.device)

/-- 60_exceptions.md R86: exactly the reads of a disabled device emit the trace event, and it changes nothing else. -/
def Obligations.OnlyDisabledReadsEmitTheTrace : Prop :=
  ∀ (i : Instr) (s t : State), exec i s = .next t →
    t.traceEvents = s.traceEvents + (if i.isWrite = false ∧ s.device.enabled = false then 1 else 0) ∧
    (t.traceEvents ≠ s.traceEvents → t.device = s.device ∧ t.response = some 0x00000000#32)

/-- 60_exceptions.md R87: the two operating conditions. -/
def Obligations.DisablingGatesReadsAndKeepsState : Prop :=
  State.reset.device.enabled = false ∧
  (∀ (i : Instr) (s : State), s.device.enabled = false → i.isWrite = false →
    ∃ t, exec i s = .next t ∧ t.response = some 0x00000000#32 ∧ t.device = s.device) ∧
  (∀ (s : State) (v : Word), s.device.enabled = false →
    ∃ t, exec (.wrCmd v) s = .next t ∧ t.device.commandBuffer = v ∧ t.device.interruptAsserted = true) ∧
  (∀ (s : State) (off on : Word), off.getLsbD 0 = false → on.getLsbD 0 = true →
    ∃ t u, exec (.wrInit off) s = .next t ∧ exec (.wrInit on) t = .next u ∧
      t.device.enabled = false ∧ u.device.enabled = true ∧
      t.device = { s.device with enableFlags := off } ∧ u.device = { s.device with enableFlags := on }) ∧
  (∀ (i : Instr) (s t : State), exec i s = .next t → t.device.enabled ≠ s.device.enabled → ∃ v, i = .wrInit v)

/-! ## Decoding and encoding -/

/-- The address decoder on every natural number (20_memory.md R36), and what an offset that names no register does (R37,
which the spec marks as derived). -/
def Obligations.AddressDecoderIsExactAndTotal : Prop :=
  (∀ off, (decodeOffset off = .id ↔ off = 0x0) ∧ (decodeOffset off = .init ↔ off = 0x4) ∧
    (decodeOffset off = .cmd ↔ off = 0x8) ∧ (decodeOffset off = .intStatus ↔ off = 0xC) ∧
    (decodeOffset off = .unknown ↔ off ≠ 0x0 ∧ off ≠ 0x4 ∧ off ≠ 0x8 ∧ off ≠ 0xC)) ∧
  (∀ (off size : Nat) (v : Word) (s : State), decodeOffset off = .unknown →
    (∃ t, exec (decodeAccess (.read off size)) s = .next t ∧ t.response = some 0x00000000#32 ∧
      t.device = s.device) ∧
    ∃ t, exec (decodeAccess (.write off size v)) s = .next t ∧ t.device = s.device)

/-- 20_memory.md R38: the size of an access changes nothing, and no value is narrowed. -/
def Obligations.AccessSizeIsIgnored : Prop :=
  (∀ (off n m : Nat) (v : Word) (s : State) (rest : List HostEvent),
    step { s with pending := .access (.read off n) :: rest } =
      step { s with pending := .access (.read off m) :: rest } ∧
    step { s with pending := .access (.write off n v) :: rest } =
      step { s with pending := .access (.write off m v) :: rest }) ∧
  (∀ (off n : Nat) (v : Word), (decodeAccess (.write off n v)).data = v) ∧
  (∀ (n : Nat) (s : State), s.device.enabled = true → ∃ t u v w,
    exec (decodeAccess (.read 0x0 n)) s = .next t ∧ t.response = some s.device.id ∧
    exec (decodeAccess (.read 0x4 n)) s = .next u ∧ u.response = some s.device.enableFlags ∧
    exec (decodeAccess (.read 0x8 n)) s = .next v ∧ v.response = some s.device.commandBuffer ∧
    exec (decodeAccess (.read 0xC n)) s = .next w ∧ w.response = some s.device.statusFlags)

/-- 30_encoding.md R49: the selector is W : OFF, and it alone picks the row. -/
def Obligations.SelectorAlonePicksTheRow : Prop :=
  (∀ w : TxWord, wordSel w = wordDir w ++ wordOff w) ∧
  ∀ w x : TxWord, wordSel w = wordSel x → (decodeWord w).mnemonic = (decodeWord x).mnemonic

/-- The DATA field of a read word is ignored (30_encoding.md R48, "it must be 0, and it is ignored"; log entry 6). -/
def Obligations.ReadWordsIgnoreData : Prop :=
  ∀ (off : BitVec 9) (data : Word), decodeWord (0#1 ++ off ++ data) = decodeWord (0#1 ++ off ++ 0x00000000#32)

/-- Decoding the word of any well-formed instruction gives it back, every operand at every value (30_encoding.md
R48, R51). -/
def Obligations.DecodeOfEncodeIsTheInstruction : Prop :=
  ∀ i : Instr, i.wf = true → decodeWord (encode i) = i ∧ decodeTableWord 42 (encode i).toNat = some i

/-- Every word decodes to a well-formed instruction (a read word with DATA other than 0 too, log entry 6), and every word
whose DATA field meets 30_encoding.md R48 is the word of its instruction. -/
def Obligations.EncodeOfDecodeIsTheWord : Prop :=
  ∀ w : TxWord, (decodeWord w).wf = true ∧ (wordCanonical w = true → encode (decodeWord w) = w)

/-- Each word falls under exactly one row of the opcode table, exact rows first, and that row is the decoded
instruction's; while the device is disabled every read does the gated branch, whatever its row (30_encoding.md R48, R49,
R51). R51 says so of the words whose DATA field meets R48; that a read word with another DATA field falls under its
selector's row too is the model's reading (log entry 6). -/
def Obligations.EveryWordFallsUnderExactlyItsTableRow : Prop :=
  (∀ w : TxWord, tableLookup w = [(decodeWord w).mnemonic]) ∧
  (∀ (i : Instr) (s : State), i.isWrite = false → s.device.enableFlags.getLsbD 0 = false →
    exec i s = .next { s with response := some 0x00000000#32, traceEvents := s.traceEvents + 1 })

/-- Words written out from 30_encoding.md R48 and 95_test_vectors.md decode to the transactions they spell. -/
def Obligations.WrittenWordsDecode : Prop :=
  decodeTableWord 48 0x00C00000000 = some .rdIntStatus ∧
  decodeTableWord 48 0x1FF00000000 = some (.rdUnknown 0x1FF) ∧
  decodeTableWord 48 0x204FFFFFFFE = some (.wrInit 0xFFFFFFFE) ∧
  decodeTableWord 48 0x20800000055 = some (.wrCmd 0x55) ∧
  decodeTableWord 48 0x210DEADBEEF = some (.wrUnknown 0x10 0xDEADBEEF)

/-- There is one transaction length, and no number within it is refused (30_encoding.md R52, R53; log entries 6
and 7). -/
def Obligations.DecoderRefusesOnlyWiderNumbers : Prop :=
  ∀ n : Nat, (n < 2 ^ 42 → ∃ i, decodeNat n = .ok i ∧ i.wf = true) ∧
    (2 ^ 42 ≤ n → decodeNat n = .error .widerThanTransaction)

/-! ## The step -/

/-- A step runs the row of the oldest pending access (00_scope.md R4, 20_memory.md R41, R43). -/
def Obligations.StepRunsTheDecodedAccess : Prop :=
  ∀ (s : State) (a : Access) (rest : List HostEvent), s.pending = .access a :: rest → s.resetInput = false →
    step s = exec (decodeAccess a) { s with pending := rest }

/-- A presented word's instruction is what the very next step runs (log entry 2). -/
def Obligations.StepRunsThePresentedWord : Prop :=
  ∀ (s : State) (nbits w : Nat) (i : Instr), decodeTableWord nbits w = some i →
    step (s.withFetchWord nbits w) = exec i { s with resetInput := false }

/-- The model's choice (log entry 3): with nothing pending, a step changes nothing. -/
def Obligations.StepWaitsWithNothingPending : Prop :=
  ∀ s : State, s.pending = [] → step s = .next s

/-- Overlapping accesses are refused (92_eei_decisions.md D17, 93_implementation_defined.md I11; log entry 9). -/
def Obligations.OverlappingAccessesAreRefused : Prop :=
  ∀ (s : State) (a b : Access) (rest : List HostEvent), s.pending = .overlap a b :: rest →
    step s = .refused .overlappingAccesses

/-- No access is accepted while the reset input is asserted (92_eei_decisions.md D9); that the access is then dropped
and yields nothing is the model's choice (log entry 10). -/
def Obligations.ResetInputHoldsOffAccesses : Prop :=
  (∀ (s : State) (a : Access) (rest : List HostEvent), s.pending = .access a :: rest → s.resetInput = true →
    ∃ t, step s = .next t ∧ t.device = s.device ∧ t.traceEvents = s.traceEvents ∧ t.response = none ∧
      t.pending = rest) ∧
  (∀ (s : State) (b : Bool) (rest : List HostEvent), s.pending = .resetInput b :: rest →
    ∃ t, step s = .next t ∧ t.resetInput = b ∧ t.device = if b then DeviceState.construct else s.device)

/-- A bus access inside the region is the access at its offset from MMIO_BASE, with the value the host converts
(20_memory.md R35, 92_eei_decisions.md D5, D7); that the conversion takes the byte order as an argument is the model's
choice (log entry 12). One outside the region is no transaction of this block (R35); that it is then taken off the
pending events, yields nothing and has no effect is the model's choice (log entry 15, DEDUCED). That bus addresses are
unbounded, so that the region does not wrap, and that the byte order is one of two, is the model's choice too (log
entries 19 and 18), and so is that the first address alone decides, whatever the size (log entry 20). -/
def Obligations.BusAccessesAreRoutedByTheRegion : Prop :=
  ∀ (s : State) (rest : List HostEvent) (addr size : Nat) (bytes : List Byte),
    (Config.mmioBase ≤ addr → addr < Config.mmioBase + 0x200 →
      step { s with pending := .bus (.read addr size) :: rest } =
        step { s with pending := .access (.read (addr - Config.mmioBase) size) :: rest } ∧
      step { s with pending := .bus (.write addr size bytes) :: rest } =
        step { s with pending := .access (.write (addr - Config.mmioBase) size
          (Config.hostWdataToU32 Config.hostEndian bytes size)) :: rest }) ∧
    ((addr < Config.mmioBase ∨ Config.mmioBase + 0x200 ≤ addr) →
      step { s with pending := .bus (.read addr size) :: rest } = .next { s with pending := rest, response := none } ∧
      step { s with pending := .bus (.write addr size bytes) :: rest } =
        .next { s with pending := rest, response := none })

/-- A host that overlaps no accesses never sees the machine stop (60_exceptions.md R69, 20_memory.md R41). That a step goes
on with nothing pending, at an access during reset, and at a bus access outside the region is the model's choice (log
entries 3, 10 and 15); so is refusing the overlap as an event (log entry 9). -/
def Obligations.SerialHostsNeverSeeAStop : Prop :=
  ∀ (n : Nat) (s : State), serialHost s.pending = true → ∃ t, Host.Core.run core n s = .next t

/-! ## Invariants and whole-machine rules -/

/-- Every step keeps the invariant, from every state that has it (10_state.md R18, R22, and R25, which the spec marks as
derived). What a step does with nothing pending, at an access during reset, and at a bus access outside the region is
the model's choice (log entries 3, 10 and 15). -/
def Obligations.EveryStepKeepsTheInvariant : Prop :=
  ∀ s t : State, s.Inv → step s = .next t → t.Inv

/-- Whatever a host does from reset, the status and the line are one of three pairs, and each of the three is reached
(10_state.md R25, which the spec marks as derived). That a host's doings are a list of pending events is the model's
choice (log entry 2), and so is what a step does with none, at an access during reset, and outside the region (log
entries 3, 10 and 15). -/
def Obligations.ReachableStatusLinePairsAreExactlyThree : Prop :=
  (∀ (events : List HostEvent) (n : Nat) (t : State),
    Host.Core.run core n { State.reset with pending := events } = .next t →
      (t.device.statusFlags, t.device.interruptAsserted) = (0x0#32, false) ∨
      (t.device.statusFlags, t.device.interruptAsserted) = (0x2#32, true) ∨
      (t.device.statusFlags, t.device.interruptAsserted) = (0x2#32, false)) ∧
  (∀ pair : Word × Bool, pair = (0x0#32, false) ∨ pair = (0x2#32, true) ∨ pair = (0x2#32, false) →
    ∃ (events : List HostEvent) (n : Nat) (t : State),
      Host.Core.run core n { State.reset with pending := events } = .next t ∧
      (t.device.statusFlags, t.device.interruptAsserted) = pair)

/-- 10_state.md R22: the status is changed only by a command write, to the enqueued pattern, and by construction (its
event, or an assertion of the reset input), to 0. -/
def Obligations.StatusIsStickyAndAssigned : Prop :=
  (∀ s t : State, step s = .next t → t.device.statusFlags ≠ s.device.statusFlags →
    ∃ (e : HostEvent) (rest : List HostEvent), s.pending = e :: rest ∧
      ((∃ (a : Access) (v : Word), decodeAccess a = .wrCmd v ∧
          (e = .access a ∨ ∃ b, e = .bus b ∧ routeBus b = some a) ∧
          t.device.statusFlags = 0x2#32 ∧ t.device.interruptAsserted = true) ∨
        ((e = .construct ∨ e = .resetInput true) ∧ t.device = DeviceState.construct ∧
          t.device.statusFlags = 0x0#32))) ∧
  (∀ (s t : State) (v : Word), exec (.wrCmd v) s = .next t → t.device.statusFlags = 0x2#32) ∧
  (∀ s t : State, exec .rdIntStatus s = .next t → t.device.statusFlags = s.device.statusFlags) ∧
  (∀ (events : List HostEvent) (n : Nat) (t : State),
    Host.Core.run core n { State.reset with pending := events } = .next t →
      t.device.statusFlags = 0x00000000#32 ∨ t.device.statusFlags = 0x00000002#32)

/-- From every state of the invariant, an enabled status read returns bit 1 and no other bit (10_state.md R21, R30). -/
def Obligations.StatusReadsShowOnlyTheEnqueuedBit : Prop :=
  ∀ (s t : State) (v : Word), s.Inv → exec .rdIntStatus s = .next t → t.response = some v →
    ∀ k, k ≠ 1 → v.getLsbD k = false

/-- The transition table, with the results of the status reads: one transaction at a time, along any list of transactions,
and for construction (60_exceptions.md R78, two of whose rows, ACKED to PENDING and IDLE to IDLE, the spec marks as
derived). -/
def Obligations.StateMachineFollowsItsTable : Prop :=
  (∀ (i : Instr) (s : State) (st : Fsm), s.device.fsm = some st →
    ∃ t, exec i s = .next t ∧
      t.device.fsm = some (fsmNext s.device.enabled st (fsmEventOf i)) ∧
      (i = .rdIntStatus → t.response = some (if s.device.enabled = true ∧ st ≠ .idle then 0x2#32 else 0x0#32))) ∧
  (∀ (is : List Instr) (s : State) (st : Fsm), s.device.fsm = some st →
    ∃ t, execAll is s = .next t ∧ t.device.fsm = some (fsmAfter is s.device.enableFlags st)) ∧
  (∀ (s : State) (rest : List HostEvent), s.pending = .construct :: rest →
    ∃ t, step s = .next t ∧ t.device.fsm = some .idle)

/-- 60_exceptions.md R72: only a command write asserts the line, and every one does. -/
def Obligations.OnlyCommandWritesAssertTheLine : Prop :=
  (∀ s t : State, step s = .next t → s.device.irqLine = false → t.device.irqLine = true →
    ∃ (e : HostEvent) (rest : List HostEvent) (a : Access) (v : Word), s.pending = e :: rest ∧
      decodeAccess a = .wrCmd v ∧ (e = .access a ∨ ∃ b, e = .bus b ∧ routeBus b = some a)) ∧
  (∀ (s : State) (v : Word), ∃ t, exec (.wrCmd v) s = .next t ∧ t.device.irqLine = true)

/-- 60_exceptions.md R73: only a status read that passes the gate deasserts the line (construction apart, which is no
transaction). -/
def Obligations.OnlyEnabledStatusReadsDeassertTheLine : Prop :=
  (∀ (i : Instr) (s t : State), exec i s = .next t → s.device.irqLine = true → t.device.irqLine = false →
    i = .rdIntStatus ∧ s.device.enableFlags.getLsbD 0 = true) ∧
  (∀ s : State, s.device.enableFlags.getLsbD 0 = true →
    ∃ t, exec .rdIntStatus s = .next t ∧ t.device.irqLine = false)

/-- 60_exceptions.md R75: the line stays asserted until it is explicitly cleared, and commands do not stack: after any
number of command writes the line is asserted once, and one enabled status read clears it. -/
def Obligations.InterruptsDoNotStack : Prop :=
  (∀ (i : Instr) (s t : State), exec i s = .next t → s.device.irqLine = true → i ≠ .rdIntStatus →
    t.device.irqLine = true) ∧
  ∀ (vs : List Word) (v : Word) (s : State), s.device.enabled = true →
    ∃ t u, execAll ((vs ++ [v]).map Instr.wrCmd) s = .next t ∧ exec .rdIntStatus t = .next u ∧
      t.device.irqLine = true ∧ u.device.irqLine = false ∧ u.response = some 0x00000002#32

/-- After any list of transactions the whole block is what their history says: the last command, the last enable
value, the sticky status, and the line (10_state.md R18, R19, R20, R22, R23, 70_reset_and_hazards.md R94). -/
def Obligations.BlockIsDeterminedByItsHistory : Prop :=
  ∀ (is : List Instr) (s : State), ∃ t, execAll is s = .next t ∧
    t.device = { id := s.device.id
                 enableFlags := lastEnable is s.device.enableFlags
                 commandBuffer := lastCommand is s.device.commandBuffer
                 statusFlags := if anyCommand is then 0x00000002#32 else s.device.statusFlags
                 interruptAsserted := lineAfter is s.device.enableFlags s.device.interruptAsserted }

/-- The identity and command echo properties (95_test_vectors.md W2, W3): after any transactions, an enabled read of
ID returns CHIP_ID, and an enabled read of CMD returns the last command written. -/
def Obligations.IdentityAndCommandEcho : Prop :=
  (∀ (is : List Instr) (s t : State), s.Inv → execAll is s = .next t → t.device.enabled = true →
    exec .rdId t = .next { t with response := some 0x0000F001#32 }) ∧
  (∀ (is : List Instr) (v : Word) (s t : State), anyCommand is = false →
    execAll (.wrCmd v :: is) s = .next t → t.device.enabled = true →
    exec .rdCmd t = .next { t with response := some v })

/-- Reads see nothing of the line: two machines that differ only in the line answer every sequence of host events alike,
and the status reads 0x2 in PENDING and in ACKED (10_state.md R32, which the spec marks as derived). What an event that
is no accepted access yields is the model's choice (log entries 4, 10 and 15). -/
def Obligations.ReadsCannotTellPendingFromAcked : Prop :=
  (∀ (n : Nat) (s : State) (line : Bool), responses n (s.withLine line) = responses n s) ∧
  (∀ s : State, s.device.enabled = true → s.device.fsm = some .pending ∨ s.device.fsm = some .acked →
    ∃ t, exec .rdIntStatus s = .next t ∧ t.response = some 0x00000002#32)

/-- The acknowledge protocol (60_exceptions.md R80), from any state with a command enqueued, the two reads in either
order. -/
def Obligations.AcknowledgeProtocolDeliversTheCommand : Prop :=
  ∀ (s : State) (e : Word), s.device.fsm = some .pending → e.getLsbD 0 = true →
    (∃ t u w, exec (.wrInit e) s = .next t ∧ exec .rdIntStatus t = .next u ∧ exec .rdCmd u = .next w ∧
      u.response = some 0x00000002#32 ∧ w.response = some s.device.commandBuffer ∧ w.device.fsm = some .acked) ∧
    (∃ t u w, exec (.wrInit e) s = .next t ∧ exec .rdCmd t = .next u ∧ exec .rdIntStatus u = .next w ∧
      u.response = some s.device.commandBuffer ∧ w.response = some 0x00000002#32 ∧ w.device.fsm = some .acked)

/-- The disabled-acknowledge hazard (70_reset_and_hazards.md R95): while no transaction enables the device, nothing
deasserts the line. -/
def Obligations.DisabledDeviceKeepsTheLineAsserted : Prop :=
  ∀ (is : List Instr) (s : State), s.device.enabled = false → s.device.irqLine = true →
    (∀ v, Instr.wrInit v ∈ is → v.getLsbD 0 = false) →
    ∃ t, execAll is s = .next t ∧ t.device.irqLine = true ∧ t.device.enabled = false

/-! ## The reference port mapping -/

/-- Any run of clock cycles of the reference port mapping leaves the block as the transactions it stands for do, and
raises the trace port as often as they emit the event (92_eei_decisions.md D8, D9). That the trace port is high in the
very cycle that accepts the disabled read is the model's choice (log entry 14), and so is that the access of a cycle
with `rst` asserted is dropped (log entry 10). -/
def Obligations.PortCyclesRefineTheTransactions : Prop :=
  ∀ (ps : List PortIn) (s : State) (p0 : PortState), p0.device = s.device →
    s.pending = ps.flatMap PortIn.events →
    ∃ t, Host.Core.run core s.pending.length s = .next t ∧
      t.device = (portRun ps p0).2.device ∧
      t.traceEvents = s.traceEvents + ((portRun ps p0).1.filter PortOut.traceDisabledRead).length ∧
      t.pending = []

/-- The port shows each read's data, which is the transaction's response, a fixed number of cycles after the request,
and the line's level from the edge that changes it on (92_eei_decisions.md D8). That the port shows no value where a
cycle produced none, and that a reset leaves the registered responses alone, is the model's choice (log entry 14). -/
def Obligations.PortDataIsTheResponseDelayed : Prop :=
  (∀ (ps : List PortIn) (p0 : PortState),
    (portRun ps p0).1.map PortOut.rspRdata = (p0.rspPipe ++ portProduced ps p0.device).take ps.length) ∧
  (∀ (p : PortIn) (s : State), p.rst = false → p.reqValid = true → p.reqWrite = false →
    ∃ t, exec (decodeAccess (.read p.reqOff.toNat p.reqSize)) s = .next t ∧
      p.producedRdata s.device = t.response) ∧
  (∀ (p q : PortIn) (s : PortState), q.rst = false →
    (portCycle q (portCycle p s).2).1.irq = (p.nextDevice s.device).interruptAsserted)
end

