-- ==== Sys2Proof/Laws/Decode.lean ====
section
/-! SUPPORT. The fields of a built word, and the two sides of the address decoder. -/

namespace Sys2Proof

theorem buildWord_toNat (dir : BitVec 1) (off : BitVec 9) (data : Word) :
    (buildWord dir off data).toNat = dir.toNat * 2 ^ 41 + off.toNat * 2 ^ 32 + data.toNat := by
  have h : (buildWord dir off data).toNat = (dir.toNat <<< 9 ||| off.toNat) <<< 32 ||| data.toNat := by
    show BitVec.toNat (dir ++ off ++ data : BitVec (1 + 9 + 32)) = _
    rw [BitVec.toNat_append, BitVec.toNat_append]
  rw [h, ← Nat.shiftLeft_add_eq_or_of_lt off.isLt, ← Nat.shiftLeft_add_eq_or_of_lt data.isLt]
  simp only [Nat.shiftLeft_eq]
  ring

@[simp] theorem wordDir_buildWord (dir : BitVec 1) (off : BitVec 9) (data : Word) :
    wordDir (buildWord dir off data) = dir := by
  apply BitVec.eq_of_toNat_eq
  have h1 := dir.isLt
  have h2 := off.isLt
  have h3 := data.isLt
  simp only [wordDir, BitVec.extractLsb'_toNat, buildWord_toNat, Nat.shiftRight_eq_div_pow]
  omega

@[simp] theorem wordOff_buildWord (dir : BitVec 1) (off : BitVec 9) (data : Word) :
    wordOff (buildWord dir off data) = off := by
  apply BitVec.eq_of_toNat_eq
  have h1 := dir.isLt
  have h2 := off.isLt
  have h3 := data.isLt
  simp only [wordOff, BitVec.extractLsb'_toNat, buildWord_toNat, Nat.shiftRight_eq_div_pow]
  omega

@[simp] theorem wordData_buildWord (dir : BitVec 1) (off : BitVec 9) (data : Word) :
    wordData (buildWord dir off data) = data := by
  apply BitVec.eq_of_toNat_eq
  have h1 := dir.isLt
  have h2 := off.isLt
  have h3 := data.isLt
  simp only [wordData, BitVec.extractLsb'_toNat, buildWord_toNat, Nat.shiftRight_eq_div_pow]
  omega

/-- A word is built from its own fields. -/
theorem buildWord_fields (w : TxWord) : buildWord (wordDir w) (wordOff w) (wordData w) = w := by
  apply BitVec.eq_of_toNat_eq
  have h := w.isLt
  rw [buildWord_toNat]
  simp only [wordDir, wordOff, wordData, BitVec.extractLsb'_toNat, Nat.shiftRight_eq_div_pow]
  omega

/-- The selector's number, from the direction and the offset (30_encoding.md R49). -/
theorem wordSel_toNat (w : TxWord) : (wordSel w).toNat = (wordDir w).toNat * 512 + (wordOff w).toNat := by
  have h := w.isLt
  simp only [wordSel, wordDir, wordOff, BitVec.extractLsb'_toNat, Nat.shiftRight_eq_div_pow]
  omega

theorem decodeOffset_of_names_none {off : Nat} (h : offsetNamesRegister off = false) :
    decodeOffset off = .unknown := by
  simp only [offsetNamesRegister, Bool.or_eq_false_iff, beq_eq_false_iff_ne] at h
  simp [decodeOffset, h]

theorem unknownOffsetOk_iff {off : Nat} :
    unknownOffsetOk off = true ↔ off < 0x200 ∧ offsetNamesRegister off = false := by
  simp [unknownOffsetOk]

end Sys2Proof
end

