-- ==== Sys2Proof/Laws/State.lean ====
section
/-! SUPPORT. What each update of the state does to each field. -/

namespace Sys2Proof.Machine

section Boundary

variable (s : State) (f : DeviceState → DeviceState) (v : Word) (line : Bool)

@[simp] theorem State.mapDevice_device : (s.mapDevice f).device = f s.device := rfl
@[simp] theorem State.mapDevice_response : (s.mapDevice f).response = s.response := rfl
@[simp] theorem State.mapDevice_traceEvents : (s.mapDevice f).traceEvents = s.traceEvents := rfl
@[simp] theorem State.mapDevice_resetInput : (s.mapDevice f).resetInput = s.resetInput := rfl
@[simp] theorem State.mapDevice_pending : (s.mapDevice f).pending = s.pending := rfl

@[simp] theorem State.respond_device : (s.respond v).device = s.device := rfl
@[simp] theorem State.respond_response : (s.respond v).response = some v := rfl
@[simp] theorem State.respond_traceEvents : (s.respond v).traceEvents = s.traceEvents := rfl
@[simp] theorem State.respond_resetInput : (s.respond v).resetInput = s.resetInput := rfl
@[simp] theorem State.respond_pending : (s.respond v).pending = s.pending := rfl

@[simp] theorem State.respondNothing_device : s.respondNothing.device = s.device := rfl
@[simp] theorem State.respondNothing_response : s.respondNothing.response = none := rfl
@[simp] theorem State.respondNothing_traceEvents : s.respondNothing.traceEvents = s.traceEvents := rfl
@[simp] theorem State.respondNothing_resetInput : s.respondNothing.resetInput = s.resetInput := rfl
@[simp] theorem State.respondNothing_pending : s.respondNothing.pending = s.pending := rfl

@[simp] theorem State.emitTrace_device : s.emitTrace.device = s.device := rfl
@[simp] theorem State.emitTrace_response : s.emitTrace.response = s.response := rfl
@[simp] theorem State.emitTrace_traceEvents : s.emitTrace.traceEvents = s.traceEvents + 1 := rfl
@[simp] theorem State.emitTrace_resetInput : s.emitTrace.resetInput = s.resetInput := rfl
@[simp] theorem State.emitTrace_pending : s.emitTrace.pending = s.pending := rfl

@[simp] theorem State.withLine_device :
    (s.withLine line).device = { s.device with interruptAsserted := line } := rfl
@[simp] theorem State.withLine_response : (s.withLine line).response = s.response := rfl
@[simp] theorem State.withLine_traceEvents : (s.withLine line).traceEvents = s.traceEvents := rfl
@[simp] theorem State.withLine_resetInput : (s.withLine line).resetInput = s.resetInput := rfl
@[simp] theorem State.withLine_pending : (s.withLine line).pending = s.pending := rfl

end Boundary

section Device

variable (d : DeviceState) (v : Word)

@[simp] theorem DeviceState.keep_eq : d.keep = d := rfl

@[simp] theorem DeviceState.deassertLine_id : d.deassertLine.id = d.id := rfl
@[simp] theorem DeviceState.deassertLine_enableFlags : d.deassertLine.enableFlags = d.enableFlags := rfl
@[simp] theorem DeviceState.deassertLine_commandBuffer : d.deassertLine.commandBuffer = d.commandBuffer := rfl
@[simp] theorem DeviceState.deassertLine_statusFlags : d.deassertLine.statusFlags = d.statusFlags := rfl
@[simp] theorem DeviceState.deassertLine_interruptAsserted : d.deassertLine.interruptAsserted = false := rfl

@[simp] theorem DeviceState.storeEnable_id : (d.storeEnable v).id = d.id := rfl
@[simp] theorem DeviceState.storeEnable_enableFlags : (d.storeEnable v).enableFlags = v := rfl
@[simp] theorem DeviceState.storeEnable_commandBuffer : (d.storeEnable v).commandBuffer = d.commandBuffer := rfl
@[simp] theorem DeviceState.storeEnable_statusFlags : (d.storeEnable v).statusFlags = d.statusFlags := rfl
@[simp] theorem DeviceState.storeEnable_interruptAsserted :
    (d.storeEnable v).interruptAsserted = d.interruptAsserted := rfl

@[simp] theorem DeviceState.enqueueCommand_id : (d.enqueueCommand v).id = d.id := rfl
@[simp] theorem DeviceState.enqueueCommand_enableFlags : (d.enqueueCommand v).enableFlags = d.enableFlags := rfl
@[simp] theorem DeviceState.enqueueCommand_commandBuffer : (d.enqueueCommand v).commandBuffer = v := rfl
@[simp] theorem DeviceState.enqueueCommand_statusFlags : (d.enqueueCommand v).statusFlags = enqueuedBit := rfl
@[simp] theorem DeviceState.enqueueCommand_interruptAsserted : (d.enqueueCommand v).interruptAsserted = true := rfl

end Device

end Sys2Proof.Machine
end

