-- ==== Sys2Proof/Laws/Ops.lean ====
section
/-! SUPPORT. What each shared operation can do, said once. -/

namespace Sys2Proof.Machine

theorem gatedRead_enabled {t : Target} {f : DeviceState → DeviceState} {s : State} (h : s.device.enabled = true) :
    gatedRead t f s = { s with device := f s.device, response := some (s.device.backing t) } := by
  simp [gatedRead, h, State.respond, State.mapDevice]

theorem gatedRead_disabled {t : Target} {f : DeviceState → DeviceState} {s : State} (h : s.device.enabled = false) :
    gatedRead t f s = { s with response := some 0, traceEvents := s.traceEvents + 1 } := by
  simp [gatedRead, h, State.respond, State.emitTrace]

theorem ungatedWrite_eq (f : DeviceState → DeviceState) (s : State) :
    ungatedWrite f s = { s with device := f s.device, response := none } := rfl

theorem constructDevice_eq (s : State) :
    constructDevice s = { s with device := DeviceState.construct, response := none } := rfl

theorem driveResetInput_true (s : State) :
    driveResetInput true s = { s with device := DeviceState.construct, response := none, resetInput := true } := rfl

theorem driveResetInput_false (s : State) : driveResetInput false s = { s with response := none, resetInput := false } :=
  rfl

theorem acceptAccess_inReset {a : Access} {s : State} (h : s.resetInput = true) :
    acceptAccess a s = .next { s with response := none } := by
  simp [acceptAccess, h, State.respondNothing]

theorem acceptAccess_accepted {a : Access} {s : State} (h : s.resetInput = false) :
    acceptAccess a s = exec (decodeAccess a) s := by
  simp [acceptAccess, h]

end Sys2Proof.Machine
end

