-- ==== Sys2Proof/Laws/Exec.lean ====
section
/-! SUPPORT. What a transaction, a host event and a step can do, said once. -/

namespace Sys2Proof.Machine

/-- Everything a transaction can do to the block. -/
theorem exec_device_cases {i : Instr} {s t : State} (h : exec i s = .next t) :
    t.device = s.device ∨
    (i = .rdIntStatus ∧ s.device.enabled = true ∧ t.device = s.device.deassertLine) ∨
    (∃ v, i = .wrInit v ∧ t.device = s.device.storeEnable v) ∨
    (∃ v, i = .wrCmd v ∧ t.device = s.device.enqueueCommand v) := by
  cases i with
  | rdIntStatus =>
    cases hs : s.device.enabled with
    | true => cases h; exact .inr (.inl ⟨rfl, rfl, by rw [gatedRead_enabled hs]⟩)
    | false => cases h; exact .inl (by rw [gatedRead_disabled hs])
  | wrInit v => cases h; exact .inr (.inr (.inl ⟨v, rfl, rfl⟩))
  | wrCmd v => cases h; exact .inr (.inr (.inr ⟨v, rfl, rfl⟩))
  | wrId _ => cases h; exact .inl rfl
  | wrIntStatus _ => cases h; exact .inl rfl
  | wrUnknown _ _ => cases h; exact .inl rfl
  | rdId | rdInit | rdCmd | rdUnknown _ =>
    cases h
    left
    unfold gatedRead
    split <;> rfl

/-- A transaction leaves the host's side of the boundary alone. -/
theorem exec_boundary {i : Instr} {s t : State} (h : exec i s = .next t) :
    t.resetInput = s.resetInput ∧ t.pending = s.pending := by
  cases i <;> cases h <;>
    first
    | exact ⟨rfl, rfl⟩
    | (unfold gatedRead; split <;> exact ⟨rfl, rfl⟩)

/-- Everything an event can do that answers a next state, and which event does it. -/
theorem runEvent_cases {e : HostEvent} {s t : State} (h : runEvent e s = .next t) :
    t = { s with response := none } ∨
    (∃ a, (e = .access a ∨ ∃ b, e = .bus b ∧ routeBus b = some a) ∧ s.resetInput = false ∧
      exec (decodeAccess a) s = .next t) ∨
    (e = .construct ∧ t = constructDevice s) ∨ (∃ b, e = .resetInput b ∧ t = driveResetInput b s) := by
  have access : ∀ {a : Access}, acceptAccess a s = .next t →
      t = { s with response := none } ∨ s.resetInput = false ∧ exec (decodeAccess a) s = .next t := by
    intro a ha
    by_cases hr : s.resetInput = true
    · rw [acceptAccess_inReset hr] at ha; cases ha; exact .inl rfl
    · rw [acceptAccess_accepted (by simpa using hr)] at ha; exact .inr ⟨by simpa using hr, ha⟩
  cases e with
  | access a => exact (access h).imp_right fun ha => .inl ⟨a, .inl rfl, ha⟩
  | bus b =>
    cases hb : routeBus b with
    | some a =>
      have h' : acceptAccess a s = .next t := by simpa [runEvent, hb] using h
      exact (access h').imp_right fun ha => .inl ⟨a, .inr ⟨b, rfl, hb⟩, ha⟩
    | none =>
      have h' : s.respondNothing = t := by simpa [runEvent, hb] using h
      exact .inl h'.symm
  | construct => cases h; exact .inr (.inr (.inl ⟨rfl, rfl⟩))
  | resetInput b => cases h; exact .inr (.inr (.inr ⟨b, rfl, rfl⟩))
  | overlap x y => cases h

/-- What an event does never depends on what the last one yielded. -/
theorem runEvent_ignores_response (e : HostEvent) (s : State) (r : Option Word) :
    runEvent e { s with response := r } = runEvent e s := by
  have access : ∀ a : Access, acceptAccess a { s with response := r } = acceptAccess a s := by
    intro a
    unfold acceptAccess
    cases decodeAccess a <;> rfl
  cases e with
  | access a => exact access a
  | bus b =>
    simp only [runEvent]
    cases routeBus b with
    | some a => exact access a
    | none => rfl
  | construct => rfl
  | resetInput b => cases b <;> rfl
  | overlap x y => rfl

theorem step_of_empty {s : State} (h : s.pending = []) : step s = .next s := by
  simp [step, takeNext, h]

theorem step_of_event {s : State} {e : HostEvent} {rest : List HostEvent} (h : s.pending = e :: rest) :
    step s = runEvent e { s with pending := rest } := by
  simp [step, takeNext, h]

/-- Everything a step can do that answers a next state. -/
theorem step_cases {s t : State} (h : step s = .next t) :
    (s.pending = [] ∧ t = s) ∨
    ∃ e rest, s.pending = e :: rest ∧ runEvent e { s with pending := rest } = .next t := by
  cases hp : s.pending with
  | nil => rw [step_of_empty hp] at h; cases h; exact .inl ⟨rfl, rfl⟩
  | cons e rest => rw [step_of_event hp] at h; exact .inr ⟨e, rest, rfl, h⟩

theorem run_zero (s : State) : Host.Core.run core 0 s = .next s := rfl

/-- A run of `n + 1` steps is a step and then a run of `n`. -/
theorem run_succ_of_next {n : Nat} {s t : State} (h : step s = .next t) :
    Host.Core.run core (n + 1) s = Host.Core.run core n t := by
  have unfolded := Host.Core.run.eq_2 core s n
  rw [show core.step s = .next t from h] at unfolded
  exact unfolded

/-- A run of `n + 1` steps that answers a next state took a first step. -/
theorem run_succ_cases {n : Nat} {s t : State} (h : Host.Core.run core (n + 1) s = .next t) :
    ∃ u, step s = .next u ∧ Host.Core.run core n u = .next t := by
  have unfolded := Host.Core.run.eq_2 core s n
  cases hs : step s with
  | next u => exact ⟨u, rfl, (run_succ_of_next hs).symm.trans h⟩
  | fault r => cases r
  | refused r =>
    rw [show core.step s = .refused r from hs] at unfolded
    have h' := unfolded.symm.trans h
    cases h'

end Sys2Proof.Machine
end

