-- ==== Sys2Proof/Laws/PerInstr.lean ====
section
/-! SUPPORT. Facts about every instruction as a term, one lemma per constructor. -/

namespace Sys2Proof.Laws.EncodedRow

/-- The word of an instruction carries the direction of its row and the instruction's data operand, bit for bit
(30_encoding.md R48, R50, R51). -/
def Statement (i : Sys2Proof.Instr) : Prop :=
  Sys2Proof.wordDir (Sys2Proof.encode i) = BitVec.ofBool i.isWrite ∧
  Sys2Proof.wordOff (Sys2Proof.encode i) = BitVec.ofNat 9 i.offset ∧
  Sys2Proof.wordData (Sys2Proof.encode i) = i.data

theorem rdId : Statement .rdId := ⟨wordDir_buildWord .., wordOff_buildWord .., wordData_buildWord ..⟩
theorem rdInit : Statement .rdInit := ⟨wordDir_buildWord .., wordOff_buildWord .., wordData_buildWord ..⟩
theorem rdCmd : Statement .rdCmd := ⟨wordDir_buildWord .., wordOff_buildWord .., wordData_buildWord ..⟩
theorem rdIntStatus : Statement .rdIntStatus := ⟨wordDir_buildWord .., wordOff_buildWord .., wordData_buildWord ..⟩
theorem rdUnknown (off : Nat) : Statement (.rdUnknown off) :=
  ⟨wordDir_buildWord .., wordOff_buildWord .., wordData_buildWord ..⟩
theorem wrId (value : Word) : Statement (.wrId value) :=
  ⟨wordDir_buildWord .., wordOff_buildWord .., wordData_buildWord ..⟩
theorem wrInit (value : Word) : Statement (.wrInit value) :=
  ⟨wordDir_buildWord .., wordOff_buildWord .., wordData_buildWord ..⟩
theorem wrCmd (value : Word) : Statement (.wrCmd value) :=
  ⟨wordDir_buildWord .., wordOff_buildWord .., wordData_buildWord ..⟩
theorem wrIntStatus (value : Word) : Statement (.wrIntStatus value) :=
  ⟨wordDir_buildWord .., wordOff_buildWord .., wordData_buildWord ..⟩
theorem wrUnknown (off : Nat) (value : Word) : Statement (.wrUnknown off value) :=
  ⟨wordDir_buildWord .., wordOff_buildWord .., wordData_buildWord ..⟩

end Sys2Proof.Laws.EncodedRow
end

