-- ==== Sys2Proof/Tests/Slice0.lean ====
section
/-! SUPPORT. The model's own tests. Expected results come from 95_test_vectors.md (the vector is named in the comment
before each test) or are written out by hand from the rule named there. The witnesses at the end show, for each
statement with hypotheses, a state and operands that meet them. -/

namespace Sys2Proof.Tests

open Sys2Proof.Machine

/-- A block with the identifier of 95_test_vectors.md and the four fields in its order (EN, CB, ST, IRQ). -/
def dev (en cb st : Word) (irq : Bool) : DeviceState := ⟨0x0000F001, en, cb, st, irq⟩

/-- A machine around a block, with nothing pending. -/
def around (d : DeviceState) : State := { State.reset with device := d }

def s0 : DeviceState := dev 0 0 0 false
def sA : DeviceState := dev 1 0 0 false
def sP : DeviceState := dev 1 0x55 2 true
def sK : DeviceState := dev 1 0x55 2 false
def sDP : DeviceState := dev 0 0x55 2 true
def sX : DeviceState := dev 0xFFFFFFFF 0xDEADBEEF 2 true
def sH : DeviceState := dev 0xFFFFFFFE 0x55 2 true

/-- The block, the response and the trace count after an outcome, if it is a next state. -/
def seen : Host.Outcome State Fault Refusal → Option (DeviceState × Option Word × Nat)
  | .next t => some (t.device, t.response, t.traceEvents)
  | .fault _ => none
  | .refused _ => none

/-- One step that runs a canonical word on a block. -/
def runWord (d : DeviceState) (w : Nat) : Option (DeviceState × Option Word × Nat) :=
  seen (step ((around d).withFetchWord 48 w))

/-! ## WellFormed refuses -/

-- 30_encoding.md R48: the offset has 9 bits.
theorem test_wf_refuses_offset_outside_region : Instr.wf (.rdUnknown 0x200) = false := by decide
theorem test_wf_refuses_write_offset_outside_region : Instr.wf (.wrUnknown 0x200 0) = false := by decide
-- 30_encoding.md R51: the default rows do not match a register's offset.
theorem test_wf_refuses_unknown_read_of_register :
    Instr.wf (.rdUnknown 0x0) = false ∧ Instr.wf (.rdUnknown 0xC) = false := by decide
theorem test_wf_refuses_unknown_write_of_register :
    Instr.wf (.wrUnknown 0x4 1) = false ∧ Instr.wf (.wrUnknown 0x8 1) = false := by decide
theorem test_wf_accepts_last_offset : Instr.wf (.rdUnknown 0x1FF) = true := by decide

/-! ## Decode: words written from 30_encoding.md R48 and R51, W then OFF then DATA -/

theorem test_decode_rdId :
    decodeTableWord 48 0b000000000000000000000000000000000000000000 = some .rdId := by decide
theorem test_decode_rdInit :
    decodeTableWord 48 0b000000010000000000000000000000000000000000 = some .rdInit := by decide
theorem test_decode_rdCmd :
    decodeTableWord 48 0b000000100000000000000000000000000000000000 = some .rdCmd := by decide
theorem test_decode_rdIntStatus :
    decodeTableWord 48 0b000000110000000000000000000000000000000000 = some .rdIntStatus := by decide
theorem test_decode_rdUnknown :
    decodeTableWord 48 0b000000110100000000000000000000000000000000 = some (.rdUnknown 0xD) := by decide
theorem test_decode_wrId :
    decodeTableWord 48 0b100000000000010010001101000101011001111000 = some (.wrId 0x12345678) := by decide
theorem test_decode_wrInit :
    decodeTableWord 48 0b100000010000000000000000000000000000000001 = some (.wrInit 1) := by decide
theorem test_decode_wrCmd :
    decodeTableWord 48 0b100000100000000000000000000000000001010101 = some (.wrCmd 0x55) := by decide
theorem test_decode_wrIntStatus :
    decodeTableWord 48 0b100000110000000000000000000000000000000010 = some (.wrIntStatus 2) := by decide
theorem test_decode_wrUnknown :
    decodeTableWord 48 0b111111110000000000000000000000000000000001 = some (.wrUnknown 0x1FC 1) := by decide
-- 30_encoding.md R48: the DATA field of a read is ignored.
theorem test_decode_read_ignores_data : decodeTableWord 48 0x008FFFFFFFF = some .rdCmd := by decide
-- 30_encoding.md R53: one transaction length, 42 bits.
theorem test_decode_refuses_bit_42 :
    decodeNat 0x40000000000 = .error .widerThanTransaction ∧ decodeTableWord 48 0x40000000000 = none :=
  ⟨rfl, by decide⟩
-- 20_memory.md R36, and 95_test_vectors.md 2.1: an offset at the region's end, which no host delivers.
theorem test_decodeOffset_total : decodeOffset 0x200 = .unknown := by decide
theorem test_encode_wrCmd : encode (.wrCmd 0x55) = 0x20800000055#42 := by decide
-- 30_encoding.md R51: no two exact rows of the table share a word.
theorem test_exact_rows_disjoint : exactRows.Pairwise (fun r q => r.mask = q.mask ∧ r.pattern ≠ q.pattern) := by decide

/-! ## The ten rows (95_test_vectors.md 2.2, 2.3) -/

-- VR5, VR1
theorem test_rdId_enabled : runWord sA 0x00000000000 = some (sA, some 0x0000F001, 0) := by decide
theorem test_rdId_disabled : runWord s0 0x00000000000 = some (s0, some 0, 1) := by decide
-- VR7, VR2
theorem test_rdInit_reserved_bits : runWord sX 0x00400000000 = some (sX, some 0xFFFFFFFF, 0) := by decide
theorem test_rdInit_disabled : runWord s0 0x00400000000 = some (s0, some 0, 1) := by decide
-- VR9, VR3
theorem test_rdCmd_keeps_line : runWord sP 0x00800000000 = some (sP, some 0x55, 0) := by decide
theorem test_rdCmd_disabled : runWord s0 0x00800000000 = some (s0, some 0, 1) := by decide
-- VR11, VR13
theorem test_rdIntStatus_acknowledges : runWord sP 0x00C00000000 = some (sK, some 2, 0) := by decide
theorem test_rdIntStatus_disabled_keeps_line : runWord sDP 0x00C00000000 = some (sDP, some 0, 1) := by decide
-- VR17, VR20
theorem test_rdUnknown_is_no_acknowledge : runWord sP 0x00D00000000 = some (sP, some 0, 0) := by decide
theorem test_rdUnknown_disabled : runWord s0 0x01000000000 = some (s0, some 0, 1) := by decide
-- VR15
theorem test_gate_is_bit_zero_alone : runWord sH 0x00000000000 = some (sH, some 0, 1) := by decide
-- VW11
theorem test_wrId_ignored : runWord sA 0x20012345678 = some (sA, none, 0) := by decide
-- VW4, VW3
theorem test_wrInit_stores_reserved_bits :
    runWord sA 0x204FFFFFFFE = some (dev 0xFFFFFFFE 0 0 false, none, 0) := by decide
theorem test_wrInit_keeps_line : runWord sP 0x20400000000 = some (sDP, none, 0) := by decide
-- VW6, VW9
theorem test_wrCmd_disabled_asserts : runWord s0 0x20800000055 = some (sDP, none, 0) := by decide
theorem test_wrCmd_zero_rearms : runWord sK 0x20800000000 = some (dev 1 0 2 true, none, 0) := by decide
-- VW12, VW13
theorem test_wrIntStatus_no_acknowledge : runWord sP 0x20C00000000 = some (sP, none, 0) := by decide
theorem test_wrIntStatus_no_change : runWord sK 0x20C00000002 = some (sK, none, 0) := by decide
-- VW15, VW16
theorem test_wrUnknown_does_not_assert : runWord sA 0x20900000001 = some (sA, none, 0) := by decide
theorem test_wrUnknown_does_not_disable : runWord sA 0x20500000000 = some (sA, none, 0) := by decide

/-! ## Host events -/

-- VF1
theorem test_construct_event : seen (step { around sX with pending := [.construct] }) = some (s0, none, 0) := by decide
-- 92_eei_decisions.md D9
theorem test_reset_input_constructs :
    seen (step { around sX with pending := [.resetInput true] }) = some (s0, none, 0) := by decide
theorem test_access_in_reset_is_not_accepted :
    seen (step { around s0 with resetInput := true, pending := [.access (.write 0x8 4 1)] }) =
      some (s0, none, 0) := by decide
-- 92_eei_decisions.md D17
theorem test_overlap_is_refused :
    step { around sA with pending := [.overlap (.read 0 4) (.read 4 4)] } = .refused .overlappingAccesses := rfl
-- 20_memory.md R35, in the region's first byte and one past its last, wherever the region is.
theorem test_bus_access_in_region :
    routeBus (.read Config.mmioBase 4) = some (.read 0 4) := by
  simp [routeBus, busInRegion, BusAccess.addr, regionSize]
theorem test_bus_access_past_region : routeBus (.read (Config.mmioBase + 0x200) 4) = none := by
  simp [routeBus, busInRegion, BusAccess.addr, regionSize]
-- 92_eei_decisions.md D8: the line shows from the edge that ends the cycle on.
theorem test_port_line_after_edge :
    (PortIn.nextDevice ⟨false, true, true, 0x8, 4, 0x55⟩ s0).interruptAsserted = true := by decide

/-! ## Witnesses: states and operands that meet the hypotheses of the statements -/

/-- A machine with one pending event. -/
def waiting (d : DeviceState) (e : HostEvent) : State := { around d with pending := [e] }

theorem exec_answers (i : Instr) (s : State) (h : (seen (exec i s)).isSome = true) : ∃ t, exec i s = .next t := by
  cases hx : exec i s with
  | next t => exact ⟨t, rfl⟩
  | fault r => cases r
  | refused r => rw [hx] at h; cases h

theorem witness_ConstructionSetsEveryField : (waiting sX .construct).pending = .construct :: [] := rfl
theorem witness_ConstructionIsTheOnlyReset :
    (waiting sX (.resetInput true)).pending = .resetInput true :: [] ∧
    exec (.wrCmd 7) (around s0) = .next (around (dev 0 7 2 true)) ∧ (dev 0 7 2 true).commandBuffer ≠ s0.commandBuffer ∧
    exec (.wrInit 0) (around sA) = .next (around s0) ∧ s0.statusFlags = 0 :=
  ⟨rfl, rfl, by decide, rfl, rfl⟩
theorem witness_ConstructionLeavesDisabledIdleAndForgets :
    ∃ t t2, (waiting sX .construct).pending = .construct :: [] ∧ step (waiting sX .construct) = .next t ∧
      (waiting sP .construct).pending = .construct :: [] ∧ step (waiting sP .construct) = .next t2 :=
  ⟨_, _, rfl, rfl, rfl, rfl⟩

theorem witness_ReadIdReturnsTheIdentifier :
    (around sA).device.enableFlags.getLsbD 0 = true ∧ (around sH).device.enableFlags.getLsbD 0 = false ∧
    ∃ t, exec .rdId (around sA) = .next t := ⟨by decide, by decide, exec_answers _ _ (by decide)⟩
theorem witness_ReadInitReturnsTheEnableRegister :
    ((around sX).device.enableFlags.getLsbD 0 = true ∧ (around s0).device.enableFlags.getLsbD 0 = false) ∧
    seen (exec .rdInit (around sX)) = some (sX, some 0xFFFFFFFF, 0) ∧
    (seen (exec (.wrInit 0xFFFFFFFF) (around s0))).isSome = true := by decide
theorem witness_ReadCmdReturnsTheCommandBuffer :
    (around sP).device.enableFlags.getLsbD 0 = true ∧ (around sDP).device.enableFlags.getLsbD 0 = false ∧
    (1 : Word).getLsbD 0 = true ∧ exec (.wrCmd 0x55) (around s0) = .next (around sDP) ∧
    exec (.wrInit 1) (around sDP) = .next (around sP) := ⟨by decide, by decide, by decide, rfl, rfl⟩
theorem witness_ReadIntStatusAcknowledges :
    (sA.enableFlags.getLsbD 0 = true ∧ sA.fsm = some .idle) ∧ (sP.enableFlags.getLsbD 0 = true ∧ sP.fsm = some .pending) ∧
    (sK.enableFlags.getLsbD 0 = true ∧ sK.fsm = some .acked) ∧ sDP.enableFlags.getLsbD 0 = false := by decide
theorem witness_ReadUnknownReturnsZero :
    (0x1 ≠ 0x0 ∧ 0x1 ≠ 0x4 ∧ 0x1 ≠ 0x8 ∧ 0x1 ≠ 0xC ∧ 0x1 < 0x200) ∧
    (0x1FF ≠ 0x0 ∧ 0x1FF ≠ 0x4 ∧ 0x1FF ≠ 0x8 ∧ 0x1FF ≠ 0xC ∧ 0x1FF < 0x200) ∧
    sA.enableFlags.getLsbD 0 = true ∧ s0.enableFlags.getLsbD 0 = false := by decide
theorem witness_WriteUnknownIsIgnored :
    (0x9 ≠ 0x0 ∧ 0x9 ≠ 0x4 ∧ 0x9 ≠ 0x8 ∧ 0x9 ≠ 0xC ∧ 0x9 < 0x200) ∧
    (0x1FF ≠ 0x0 ∧ 0x1FF ≠ 0x4 ∧ 0x1FF ≠ 0x8 ∧ 0x1FF ≠ 0xC ∧ 0x1FF < 0x200) := by decide
theorem witness_WriteIdIsIgnored :
    (around sA).device.id = 0x0000F001#32 ∧ (around sA).device.enableFlags.getLsbD 0 = true ∧
    exec (.wrId 7) (around sA) = .next (around sA) := ⟨rfl, by decide, rfl⟩
theorem witness_WriteInitReplacesTheEnableRegister :
    exec (.wrInit 0) (around sA) = .next (around s0) ∧
    exec (.wrInit 0xFFFFFFFE) (around sA) = .next (around (dev 0xFFFFFFFE 0 0 false)) ∧
    (around s0).device.id = 0x0000F001#32 ∧ exec (.wrInit 1) (around s0) = .next (around sA) := ⟨rfl, rfl, rfl, rfl⟩
theorem witness_WriteCmdStoresSetsStatusAndAsserts :
    exec (.wrCmd 0x55) (around sA) = .next (around sP) ∧
    exec (.wrCmd 0x99) (around sP) = .next (around (dev 1 0x99 2 true)) ∧
    s0.enabled = false ∧ exec (.wrCmd 0x55) (around s0) = .next (around sDP) ∧
    seen (exec .rdIntStatus (around sDP)) = some (sDP, some 0, 1) := ⟨rfl, rfl, by decide, rfl, by decide⟩
theorem witness_WriteIntStatusIsIgnored :
    seen (exec .rdIntStatus (around sP)) = some (sK, some 2, 0) ∧ sP.interruptAsserted = true ∧
    sK.interruptAsserted = false ∧ sP.enqueued = true := by decide
theorem witness_ReadGatesThenDecodes :
    s0.enableFlags.getLsbD 0 = false ∧ sX.enableFlags.getLsbD 0 = true := by decide
theorem witness_EveryReadYieldsAStoredPatternOrZero :
    Instr.isWrite .rdIntStatus = false ∧ Instr.isWrite (.rdUnknown 0x1FF) = false := by decide
theorem witness_EveryWriteStoresItsOperandOrTheConstant :
    Instr.isWrite (.wrCmd 0xFFFFFFFF) = true ∧ Instr.isWrite (.wrId 0) = true := by decide
theorem witness_TransactionsChangeOnlyTheFieldsTheirRulesName :
    exec (.wrInit 1) (around s0) = .next (around sA) ∧ sA.enableFlags ≠ s0.enableFlags ∧
    exec (.wrCmd 0x55) (around sA) = .next (around sP) ∧ sP.commandBuffer ≠ sA.commandBuffer ∧
    sP.statusFlags ≠ sA.statusFlags ∧ sP.interruptAsserted ≠ sA.interruptAsserted :=
  ⟨rfl, by decide, rfl, by decide, by decide, by decide⟩
theorem witness_AccessSideEffectsAndIdempotency :
    Instr.isWrite .rdCmd = false ∧ Instr.rdCmd ≠ .rdIntStatus ∧
    seen (exec .rdCmd (around sP)) = some (sP, some 0x55, 0) ∧
    Instr.isWrite .rdIntStatus = false ∧ sDP.enabled = false ∧
    seen (exec .rdIntStatus (around sDP)) = some (sDP, some 0, 1) ∧
    sP.enabled = true ∧ seen (exec .rdIntStatus (around sP)) = some (sK, some 2, 0) ∧
    seen (exec .rdIntStatus (around sK)) = some (sK, some 2, 0) ∧
    seen (exec (.wrUnknown 0x10 1) (around sP)) = some (sP, none, 0) := by decide
theorem witness_OnlyDisabledReadsEmitTheTrace :
    Instr.isWrite .rdId = false ∧ sH.enabled = false ∧ seen (exec .rdId (around sH)) = some (sH, some 0, 1) := by decide
theorem witness_DisablingGatesReadsAndKeepsState :
    sDP.enabled = false ∧ Instr.isWrite .rdCmd = false ∧ (0xFFFFFFFE : Word).getLsbD 0 = false ∧
    (1 : Word).getLsbD 0 = true ∧ seen (exec (.wrInit 1) (around sDP)) = some (sP, none, 0) ∧
    sP.enabled ≠ sDP.enabled := by decide
theorem witness_AddressDecoderIsExactAndTotal :
    decodeOffset 0x3 = .unknown ∧ decodeOffset 0xD = .unknown ∧ decodeOffset 0x200 = .unknown := by decide
theorem witness_AccessSizeIsIgnored : (around sX).device.enabled = true := by decide
theorem witness_SelectorAlonePicksTheRow : wordSel 0x20800000055 = wordSel 0x208FFFFFFFF := by decide
theorem witness_DecodeOfEncodeIsTheInstruction :
    Instr.wf (.rdUnknown 0x1FF) = true ∧ Instr.wf (.wrUnknown 0x10 0xFFFFFFFF) = true ∧ Instr.wf .rdId = true := by decide
theorem witness_EncodeOfDecodeIsTheWord :
    wordCanonical 0x00C00000000 = true ∧ wordCanonical 0x3FFFFFFFFFF = true := by decide
theorem witness_EveryWordFallsUnderExactlyItsTableRow :
    Instr.isWrite (.rdUnknown 0x10) = false ∧ s0.enableFlags.getLsbD 0 = false := by decide
theorem witness_DecoderRefusesOnlyWiderNumbers : 2 ^ 42 - 1 < 2 ^ 42 ∧ 2 ^ 42 ≤ 2 ^ 42 := by decide
theorem witness_StepRunsTheDecodedAccess :
    (waiting sA (.access (.write 0x8 4 0x55))).pending = .access (.write 0x8 4 0x55) :: [] ∧
    (waiting sA (.access (.write 0x8 4 0x55))).resetInput = false := ⟨rfl, rfl⟩
theorem witness_StepRunsThePresentedWord : decodeTableWord 48 0x3FFFFFFFFFF = some (.wrUnknown 0x1FF 0xFFFFFFFF) := by decide
theorem witness_StepWaitsWithNothingPending : (around sP).pending = [] := rfl
theorem witness_OverlappingAccessesAreRefused :
    (waiting sA (.overlap (.read 0 4) (.write 8 4 1))).pending = .overlap (.read 0 4) (.write 8 4 1) :: [] := rfl
theorem witness_ResetInputHoldsOffAccesses :
    ({ waiting s0 (.access (.read 0 4)) with resetInput := true }).pending = .access (.read 0 4) :: [] ∧
    ({ waiting s0 (.access (.read 0 4)) with resetInput := true }).resetInput = true ∧
    (waiting sP (.resetInput false)).pending = .resetInput false :: [] := ⟨rfl, rfl, rfl⟩
theorem witness_BusAccessesAreRoutedByTheRegion :
    (Config.mmioBase ≤ Config.mmioBase ∧ Config.mmioBase < Config.mmioBase + 0x200) ∧
    (Config.mmioBase ≤ Config.mmioBase + 0x1FF ∧ Config.mmioBase + 0x1FF < Config.mmioBase + 0x200) ∧
    Config.mmioBase + 0x200 ≤ Config.mmioBase + 0x200 := by omega
theorem witness_SerialHostsNeverSeeAStop :
    serialHost [.construct, .access (.read 0 4), .bus (.read 0 4), .resetInput true] = true := by decide
theorem witness_EveryStepKeepsTheInvariant :
    (around sP).Inv ∧ ∃ t, step (waiting sP (.access (.read 0xC 4))) = .next t :=
  ⟨⟨rfl, .inr rfl, fun _ => rfl⟩, _, rfl⟩
theorem witness_ReachableStatusLinePairsAreExactlyThree :
    ∃ t, Host.Core.run core 1 { State.reset with pending := [.access (.write 0x8 4 0)] } = .next t := ⟨_, rfl⟩
theorem witness_StatusIsStickyAndAssigned :
    ∃ t, step (waiting sA (.access (.write 0x8 4 0))) = .next t ∧
      t.device.statusFlags ≠ (waiting sA (.access (.write 0x8 4 0))).device.statusFlags := ⟨_, rfl, by decide⟩
theorem witness_StatusIsStickyAndAssigned_construct :
    ∃ t, step (waiting sP (.resetInput true)) = .next t ∧
      t.device.statusFlags ≠ (waiting sP (.resetInput true)).device.statusFlags := ⟨_, rfl, by decide⟩
theorem witness_StatusReadsShowOnlyTheEnqueuedBit :
    (around sP).Inv ∧ seen (exec .rdIntStatus (around sP)) = some (sK, some 2, 0) ∧ 0 ≠ 1 ∧ 31 ≠ 1 :=
  ⟨⟨rfl, .inr rfl, fun _ => rfl⟩, by decide, by decide, by decide⟩
theorem witness_StateMachineFollowsItsTable :
    s0.fsm = some .idle ∧ sDP.fsm = some .pending ∧ sK.fsm = some .acked := by decide
theorem witness_OnlyCommandWritesAssertTheLine :
    ∃ t, step (waiting s0 (.access (.write 0x8 1 0))) = .next t ∧ s0.irqLine = false ∧ t.device.irqLine = true :=
  ⟨_, rfl, rfl, rfl⟩
theorem witness_OnlyEnabledStatusReadsDeassertTheLine :
    seen (exec .rdIntStatus (around sP)) = some (sK, some 2, 0) ∧ sP.irqLine = true ∧ sK.irqLine = false ∧
    sP.enableFlags.getLsbD 0 = true := by decide
theorem witness_InterruptsDoNotStack :
    sP.irqLine = true ∧ Instr.rdCmd ≠ .rdIntStatus ∧ sA.enabled = true := by decide
theorem witness_IdentityAndCommandEcho :
    (around s0).Inv ∧ execAll [.wrInit 1] (around s0) = .next (around sA) ∧ sA.enabled = true ∧
    anyCommand [.wrInit 1] = false ∧ execAll [.wrCmd 0x55, .wrInit 1] (around s0) = .next (around sP) ∧
    sP.enabled = true := ⟨⟨rfl, .inl rfl, fun h => by cases h⟩, rfl, by decide, by decide, rfl, by decide⟩
theorem witness_ReadsCannotTellPendingFromAcked :
    (sP.enabled = true ∧ sP.fsm = some .pending) ∧ (sK.enabled = true ∧ sK.fsm = some .acked) := by decide
theorem witness_AcknowledgeProtocolDeliversTheCommand :
    (around sDP).device.fsm = some .pending ∧ (1 : Word).getLsbD 0 = true := by decide
theorem witness_DisabledDeviceKeepsTheLineAsserted :
    sH.enabled = false ∧ sH.irqLine = true ∧
    ∀ v, Instr.wrInit v ∈ [Instr.rdIntStatus, .wrInit 0xFFFFFFFE, .wrIntStatus 0] → v.getLsbD 0 = false := by
  refine ⟨by decide, by decide, fun v h => ?_⟩
  have : v = 0xFFFFFFFE := by simpa using h
  rw [this]; decide
/-- A reset cycle, and then a cycle that requests a command write. -/
def twoCycles : List PortIn := [⟨true, false, false, 0, 0, 0⟩, ⟨false, true, true, 0x8, 4, 7⟩]

theorem witness_PortCyclesRefineTheTransactions :
    (PortState.mk s0 []).device = (around s0).device ∧
    ({ around s0 with pending := twoCycles.flatMap PortIn.events }).pending = twoCycles.flatMap PortIn.events :=
  ⟨rfl, rfl⟩
theorem witness_PortDataIsTheResponseDelayed :
    (PortIn.mk false true false 0xC 4 0).rst = false ∧ (PortIn.mk false true false 0xC 4 0).reqValid = true ∧
    (PortIn.mk false true false 0xC 4 0).reqWrite = false := ⟨rfl, rfl, rfl⟩

end Sys2Proof.Tests
end

section
/-! The statements on the scope (00_scope.md): the frame of every transaction, and what a step runs. -/

namespace Sys2Proof.Proofs.Scope

open Sys2Proof Sys2Proof.Machine

/-- Settles O20: each of the four things a transaction can do to the block is compared with the block before it,
field by field. -/
theorem transactionsChangeOnlyTheFieldsTheirRulesName :
    Obligations.TransactionsChangeOnlyTheFieldsTheirRulesName := by
  intro i s t h
  obtain unchanged | ⟨rfl, -, lineLow⟩ | ⟨v, rfl, stored⟩ | ⟨v, rfl, enqueued⟩ := exec_device_cases h
  · simp [unchanged]
  · simp [lineLow]
  · simp [stored]
  · simp [enqueued]

/-- Settles O33: the step runs the oldest event, and with the reset input low that event's access is accepted. -/
theorem stepRunsTheDecodedAccess : Obligations.StepRunsTheDecodedAccess := by
  intro s a rest oldest resetLow
  calc step s
      = acceptAccess a { s with pending := rest } := step_of_event oldest
    _ = exec (decodeAccess a) { s with pending := rest } := acceptAccess_accepted resetLow

end Sys2Proof.Proofs.Scope
end

section
/-! What the proofs on the block's state share: the invariant along steps and runs, the block after one transaction,
and a machine beside the same machine with the line at another level. -/

namespace Sys2Proof.Machine

/-! ## The invariant -/

section Invariant

variable {d : DeviceState} {s t : State}

theorem DeviceState.construct_inv : DeviceState.construct.Inv := ⟨rfl, .inl rfl, nofun⟩

theorem DeviceState.Inv.deassertLine (inv : d.Inv) : d.deassertLine.Inv := by
  obtain ⟨ident, status, -⟩ := inv
  exact ⟨ident, status, nofun⟩

theorem DeviceState.Inv.storeEnable (inv : d.Inv) (v : Word) : (d.storeEnable v).Inv := inv

theorem DeviceState.Inv.enqueueCommand (inv : d.Inv) (v : Word) : (d.enqueueCommand v).Inv := by
  obtain ⟨ident, -, -⟩ := inv
  exact ⟨ident, .inr rfl, fun _ => rfl⟩

/-- The three pairs of status and line the invariant allows (10_state.md R25). -/
theorem DeviceState.Inv.statusLine_cases (inv : d.Inv) :
    (d.statusFlags, d.interruptAsserted) = (0x0#32, false) ∨
    (d.statusFlags, d.interruptAsserted) = (0x2#32, true) ∨
    (d.statusFlags, d.interruptAsserted) = (0x2#32, false) := by
  obtain ⟨-, status, lineHigh⟩ := inv
  cases line : d.interruptAsserted with
  | true => exact .inr (.inl (by rw [lineHigh line]; rfl))
  | false =>
    obtain zero | enqueued := status
    · exact .inl (by rw [zero]; rfl)
    · exact .inr (.inr (by rw [enqueued]; rfl))

theorem exec_keeps_inv {i : Instr} (inv : s.Inv) (h : exec i s = .next t) : t.Inv := by
  unfold State.Inv
  obtain unchanged | ⟨-, -, lineLow⟩ | ⟨v, -, stored⟩ | ⟨v, -, enqueued⟩ := exec_device_cases h
  · rw [unchanged]; exact inv
  · rw [lineLow]; exact inv.deassertLine
  · rw [stored]; exact inv.storeEnable v
  · rw [enqueued]; exact inv.enqueueCommand v

/-- Everything a step can do to the block, and which event does it: leave it, run a transaction on it, or construct it. -/
theorem step_device_cases (h : step s = .next t) :
    t.device = s.device ∨
    ∃ e rest, s.pending = e :: rest ∧
      ((∃ (a : Access) (u : State), (e = .access a ∨ ∃ b, e = .bus b ∧ routeBus b = some a) ∧ u.device = s.device ∧
          exec (decodeAccess a) u = .next t) ∨
        ((e = .construct ∨ e = .resetInput true) ∧ t.device = DeviceState.construct)) := by
  obtain ⟨-, rfl⟩ | ⟨e, rest, oldest, ran⟩ := step_cases h
  · exact .inl rfl
  obtain rfl | ⟨a, presents, -, executed⟩ | ⟨rfl, rfl⟩ | ⟨asserted, rfl, rfl⟩ := runEvent_cases ran
  · exact .inl rfl
  · exact .inr ⟨e, rest, oldest, .inl ⟨a, { s with pending := rest }, presents, rfl, executed⟩⟩
  · exact .inr ⟨_, rest, oldest, .inr ⟨.inl rfl, rfl⟩⟩
  · cases asserted with
    | true => exact .inr ⟨_, rest, oldest, .inr ⟨.inr rfl, rfl⟩⟩
    | false => exact .inl rfl

theorem step_keeps_inv (inv : s.Inv) (h : step s = .next t) : t.Inv := by
  obtain unchanged | ⟨-, -, -, ⟨a, u, -, sameBlock, executed⟩ | ⟨-, constructed⟩⟩ := step_device_cases h
  · unfold State.Inv; rw [unchanged]; exact inv
  · have invBefore : u.Inv := by unfold State.Inv; rw [sameBlock]; exact inv
    exact exec_keeps_inv invBefore executed
  · unfold State.Inv; rw [constructed]; exact DeviceState.construct_inv

/-- What every step keeps, every run keeps. -/
theorem run_keeps {P : State → Prop} (keeps : ∀ {s t : State}, P s → step s = .next t → P t) {n : Nat}
    (start : P s) (h : Host.Core.run core n s = .next t) : P t := by
  induction n generalizing s with
  | zero => cases h; exact start
  | succ n ih =>
    obtain ⟨u, first, later⟩ := run_succ_cases h
    exact ih (keeps start first) later

/-- Every state a host's events reach from reset meets the invariant. -/
theorem run_from_reset_inv {events : List HostEvent} {n : Nat}
    (h : Host.Core.run core n { State.reset with pending := events } = .next t) : t.Inv :=
  run_keeps (P := State.Inv) (s := { State.reset with pending := events }) step_keeps_inv DeviceState.construct_inv h

end Invariant

/-! ## The status by itself -/

section Status

variable {d : DeviceState} {s t : State}

theorem enqueuedBit_getLsbD_of_ne {k : Nat} (other : k ≠ 1) : enqueuedBit.getLsbD k = false := by
  have onlyBitOne : enqueuedBit = BitVec.twoPow 32 1 := by decide
  rw [onlyBitOne, BitVec.getLsbD_twoPow]
  simp [other.symm]

theorem DeviceState.fsm_eq_pending_iff :
    d.fsm = some .pending ↔ d.statusFlags = enqueuedBit ∧ d.interruptAsserted = true := by
  unfold DeviceState.fsm
  split_ifs <;> simp_all

theorem DeviceState.fsm_eq_acked_iff :
    d.fsm = some .acked ↔ d.statusFlags = enqueuedBit ∧ d.interruptAsserted = false := by
  have differ : (0 : Word) ≠ enqueuedBit := by decide
  unfold DeviceState.fsm
  split_ifs <;> simp_all

/-- Of the transactions, only a command write changes the status. -/
theorem exec_changes_status {i : Instr} (h : exec i s = .next t)
    (changed : t.device.statusFlags ≠ s.device.statusFlags) :
    ∃ v, i = .wrCmd v ∧ t.device = s.device.enqueueCommand v := by
  obtain unchanged | ⟨-, -, lineLow⟩ | ⟨v, -, stored⟩ | enqueued := exec_device_cases h
  · exact absurd (by rw [unchanged]) changed
  · exact absurd (by rw [lineLow, DeviceState.deassertLine_statusFlags]) changed
  · exact absurd (by rw [stored, DeviceState.storeEnable_statusFlags]) changed
  · exact enqueued

end Status

/-! ## The block after a history -/

/-- The block after one transaction, field by field, as the history functions of Safety.lean read it. -/
theorem exec_device_eq (i : Instr) (s : State) : ∃ t, exec i s = .next t ∧
    t.device = { id := s.device.id
                 enableFlags := (enableOf i).getD s.device.enableFlags
                 commandBuffer := (commandOf i).getD s.device.commandBuffer
                 statusFlags := if (commandOf i).isSome then enqueuedBit else s.device.statusFlags
                 interruptAsserted := lineOf i s.device.enableFlags s.device.interruptAsserted } := by
  cases i with
  | rdId | rdInit | rdCmd | rdUnknown _ =>
    refine ⟨_, rfl, ?_⟩
    cases en : s.device.enabled with
    | true => rw [gatedRead_enabled en]; rfl
    | false => rw [gatedRead_disabled en]; rfl
  | rdIntStatus =>
    refine ⟨_, rfl, ?_⟩
    cases en : s.device.enabled with
    | true =>
      have line : lineOf .rdIntStatus s.device.enableFlags s.device.interruptAsserted = false := if_pos en
      rw [gatedRead_enabled en, line]; rfl
    | false =>
      have line : lineOf .rdIntStatus s.device.enableFlags s.device.interruptAsserted = s.device.interruptAsserted :=
        if_neg (Bool.eq_false_iff.mp en)
      rw [gatedRead_disabled en, line]; rfl
  | wrId _ | wrInit _ | wrCmd _ | wrIntStatus _ | wrUnknown _ _ => exact ⟨_, rfl, rfl⟩

theorem execAll_cons_of_next {i : Instr} {is : List Instr} {s t : State} (h : exec i s = .next t) :
    execAll (i :: is) s = execAll is t := by
  simp only [execAll, h]

theorem anyCommand_cons (i : Instr) (is : List Instr) :
    anyCommand (i :: is) = ((commandOf i).isSome || anyCommand is) := rfl

/-! ## The same machine with the line at another level -/

/-- A read whose effect on the block treats the line apart from the other fields does so behind the gate too. -/
theorem gatedRead_withLine (target : Target) (f : DeviceState → DeviceState) (line line' : Bool)
    (hf : ∀ d : DeviceState, f { d with interruptAsserted := line } = { f d with interruptAsserted := line' })
    (s : State) :
    ∃ after, gatedRead target f (s.withLine line) = (gatedRead target f s).withLine after := by
  have sameValue : (s.withLine line).device.backing target = s.device.backing target := by cases target <;> rfl
  cases en : s.device.enabled with
  | true =>
    have en' : (s.withLine line).device.enabled = true := en
    refine ⟨line', ?_⟩
    rw [gatedRead_enabled en', gatedRead_enabled en, sameValue, State.withLine_device, hf]
    rfl
  | false =>
    have en' : (s.withLine line).device.enabled = false := en
    exact ⟨line, by rw [gatedRead_disabled en', gatedRead_disabled en]; rfl⟩

/-- A transaction may write the line, and else does the same whatever the line is. -/
theorem exec_withLine (i : Instr) (s : State) (line : Bool) :
    ∃ t after, exec i s = .next t ∧ exec i (s.withLine line) = .next (t.withLine after) := by
  cases i with
  | rdIntStatus =>
    obtain ⟨after, same⟩ := gatedRead_withLine .intStatus .deassertLine line false (fun _ => rfl) s
    exact ⟨_, after, rfl, congrArg Host.Outcome.next same⟩
  | rdId | rdInit | rdCmd | rdUnknown _ =>
    obtain ⟨after, same⟩ := gatedRead_withLine _ .keep line line (fun _ => rfl) s
    exact ⟨_, after, rfl, congrArg Host.Outcome.next same⟩
  | wrCmd _ => exact ⟨_, true, rfl, rfl⟩
  | wrId _ | wrInit _ | wrIntStatus _ | wrUnknown _ _ => exact ⟨_, line, rfl, rfl⟩

theorem acceptAccess_withLine (a : Access) (s : State) (line : Bool) :
    ∃ t after, acceptAccess a s = .next t ∧ acceptAccess a (s.withLine line) = .next (t.withLine after) := by
  cases level : s.resetInput with
  | true =>
    have level' : (s.withLine line).resetInput = true := level
    exact ⟨_, line, acceptAccess_inReset level, acceptAccess_inReset level'⟩
  | false =>
    have level' : (s.withLine line).resetInput = false := level
    rw [acceptAccess_accepted level, acceptAccess_accepted level']
    exact exec_withLine (decodeAccess a) s line

/-- A host event that is not refused may write the line, and else does the same whatever the line is. -/
theorem runEvent_withLine (e : HostEvent) (s : State) (line : Bool) :
    (∃ t after, runEvent e s = .next t ∧ runEvent e (s.withLine line) = .next (t.withLine after)) ∨
    ∃ r, runEvent e s = .refused r ∧ runEvent e (s.withLine line) = .refused r := by
  cases e with
  | access a => exact .inl (acceptAccess_withLine a s line)
  | bus b =>
    left
    simp only [runEvent]
    cases routeBus b with
    | some a => exact acceptAccess_withLine a s line
    | none => exact ⟨s.respondNothing, line, rfl, rfl⟩
  | construct => exact .inl ⟨_, false, rfl, rfl⟩
  | resetInput asserted =>
    cases asserted with
    | true => exact .inl ⟨_, false, rfl, rfl⟩
    | false => exact .inl ⟨_, line, rfl, rfl⟩
  | overlap _ _ => exact .inr ⟨_, rfl, rfl⟩

/-! ## What a host sees of a run -/

section Responses

variable {n : Nat} {s t : State} {e : HostEvent} {rest : List HostEvent}

theorem responses_of_empty (h : s.pending = []) : responses n s = [] := by
  cases n <;> simp [responses, h]

theorem responses_of_next (oldest : s.pending = e :: rest) (h : step s = .next t) :
    responses (n + 1) s = t.response :: responses n t := by
  simp [responses, oldest, h]

theorem responses_of_refused {r : Refusal} (h : step s = .refused r) : responses n s = [] := by
  cases pending : s.pending with
  | nil => exact responses_of_empty pending
  | cons e rest => cases n <;> simp [responses, pending, h]

/-- The two machines take the same events, and after each they again differ only in the line. -/
theorem responses_withLine (n : Nat) (s : State) (line : Bool) : responses n (s.withLine line) = responses n s := by
  induction n generalizing s line with
  | zero => rfl
  | succ n ih =>
    have oldestLine : (s.withLine line).pending = s.pending := State.withLine_pending s line
    cases oldest : s.pending with
    | nil => rw [responses_of_empty oldest, responses_of_empty (oldestLine.trans oldest)]
    | cons e rest =>
      have takes : step s = runEvent e { s with pending := rest } := step_of_event oldest
      have takesLine : step (s.withLine line) = runEvent e (State.withLine { s with pending := rest } line) :=
        step_of_event (oldestLine.trans oldest)
      obtain ⟨t, after, ran, ranLine⟩ | ⟨r, stops, stopsLine⟩ :=
        runEvent_withLine e { s with pending := rest } line
      · rw [responses_of_next oldest (takes.trans ran),
          responses_of_next (oldestLine.trans oldest) (takesLine.trans ranLine), State.withLine_response, ih]
      · rw [responses_of_refused (takes.trans stops), responses_of_refused (takesLine.trans stopsLine)]

end Responses

end Sys2Proof.Machine
end

section
/-! The statements on the block's state (10_state.md): its invariant, its status, its history, and what reads see of
the interrupt line. -/

namespace Sys2Proof.Proofs.BlockState

open Sys2Proof Sys2Proof.Machine

/-- Settles O40: a step leaves the block, runs a transaction on it or constructs it, and each keeps the invariant. -/
theorem everyStepKeepsTheInvariant : Obligations.EveryStepKeepsTheInvariant :=
  fun _ _ inv stepped => step_keeps_inv inv stepped

/-- Settles O4: the constructed block is in the first of the invariant's cases. -/
theorem resetSatisfiesTheInvariant : Obligations.ResetSatisfiesTheInvariant := DeviceState.construct_inv

/-- Settles O41: the invariant holds along every run from reset; no event, a command write, and a command write
acknowledged by an enabled status read reach the three pairs. -/
theorem reachableStatusLinePairsAreExactlyThree : Obligations.ReachableStatusLinePairsAreExactlyThree := by
  refine ⟨fun events n t ran => (run_from_reset_inv ran).statusLine_cases, ?_⟩
  rintro pair (rfl | rfl | rfl)
  · exact ⟨[], 0, _, rfl, rfl⟩
  · exact ⟨[.access (.write 0x8 4 0x55)], 1, _, rfl, rfl⟩
  · exact ⟨[.access (.write 0x4 4 1), .access (.write 0x8 4 0x55), .access (.read 0xC 4)], 3, _, rfl, rfl⟩

/-- Settles O42: of the things a step can do to the block, only a command write and construction change the status. -/
theorem statusIsStickyAndAssigned : Obligations.StatusIsStickyAndAssigned := by
  refine ⟨?_, ?_, ?_, ?_⟩
  · intro s t stepped changed
    obtain unchanged | ⟨e, rest, oldest, ⟨a, u, presents, sameBlock, executed⟩ | ⟨constructs, constructed⟩⟩ :=
      step_device_cases stepped
    · exact absurd (by rw [unchanged]) changed
    · obtain ⟨v, command, enqueued⟩ := exec_changes_status executed (by rwa [sameBlock])
      exact ⟨e, rest, oldest, .inl ⟨a, v, command, presents, by rw [enqueued]; rfl, by rw [enqueued]; rfl⟩⟩
    · exact ⟨e, rest, oldest, .inr ⟨constructs, constructed, by rw [constructed]; rfl⟩⟩
  · intro s t v h
    cases h
    rfl
  · intro s t h
    by_contra changed
    obtain ⟨v, command, -⟩ := exec_changes_status h changed
    cases command
  · intro events n t ran
    obtain ⟨-, status, -⟩ := run_from_reset_inv ran
    exact status

/-- Settles O43: a status read yields 0 while disabled, and else the status, which the invariant says is 0 or 0x2. -/
theorem statusReadsShowOnlyTheEnqueuedBit : Obligations.StatusReadsShowOnlyTheEnqueuedBit := by
  rintro s t v ⟨-, status, -⟩ h responded k other
  have zeroOrEnqueued : v = 0 ∨ v = enqueuedBit := by
    cases h
    cases en : s.device.enabled with
    | true => rw [gatedRead_enabled en] at responded; cases responded; exact status
    | false => rw [gatedRead_disabled en] at responded; cases responded; exact .inl rfl
  obtain rfl | rfl := zeroOrEnqueued
  · exact BitVec.getLsbD_zero
  · exact enqueuedBit_getLsbD_of_ne other

/-- Settles O48, by induction on the history: the first transaction changes each field as the history function of
that field says. -/
theorem blockIsDeterminedByItsHistory : Obligations.BlockIsDeterminedByItsHistory := by
  intro is
  induction is with
  | nil => exact fun s => ⟨s, rfl, rfl⟩
  | cons i is ih =>
    intro s
    obtain ⟨u, first, afterFirst⟩ := exec_device_eq i s
    obtain ⟨t, later, afterLater⟩ := ih u
    refine ⟨t, (execAll_cons_of_next first).trans later, ?_⟩
    rw [afterLater, afterFirst, anyCommand_cons]
    cases (commandOf i).isSome <;> cases anyCommand is <;> rfl

/-- Settles O50: the first clause is the simulation of the two machines; in PENDING and in ACKED the status is 0x2,
which an enabled status read yields. -/
theorem readsCannotTellPendingFromAcked : Obligations.ReadsCannotTellPendingFromAcked := by
  refine ⟨responses_withLine, fun s en pendingOrAcked => ⟨_, rfl, ?_⟩⟩
  have status : s.device.statusFlags = enqueuedBit := by
    obtain ⟨status, -⟩ | ⟨status, -⟩ :=
      pendingOrAcked.imp DeviceState.fsm_eq_pending_iff.mp DeviceState.fsm_eq_acked_iff.mp
    · exact status
    · exact status
  rw [gatedRead_enabled en]
  exact congrArg some status

end Sys2Proof.Proofs.BlockState
end

section
/-! What the proofs on memory share: the address decoder and the rows of accesses, the region of the bus, and what a
transaction's outcome depends on. -/

namespace Sys2Proof

/-! ## The address decoder -/

/-- An offset is one of the four that name a register, and decodes to it, or names none (20_memory.md R36). -/
theorem decodeOffset_cases (off : Nat) :
    (off = 0x0 ∧ decodeOffset off = .id) ∨ (off = 0x4 ∧ decodeOffset off = .init) ∨
    (off = 0x8 ∧ decodeOffset off = .cmd) ∨ (off = 0xC ∧ decodeOffset off = .intStatus) ∨
    (offsetNamesRegister off = false ∧ decodeOffset off = .unknown) := by
  cases names : offsetNamesRegister off with
  | false => exact .inr (.inr (.inr (.inr ⟨rfl, decodeOffset_of_names_none names⟩)))
  | true =>
    have register : ((off = 0x0 ∨ off = 0x4) ∨ off = 0x8) ∨ off = 0xC := by
      simpa only [offsetNamesRegister, Bool.or_eq_true, beq_iff_eq] using names
    obtain ((rfl | rfl) | rfl) | rfl := register <;> decide

theorem offsetNamesRegister_eq_false_iff {off : Nat} :
    offsetNamesRegister off = false ↔ off ≠ 0x0 ∧ off ≠ 0x4 ∧ off ≠ 0x8 ∧ off ≠ 0xC := by
  simp only [offsetNamesRegister, Bool.or_eq_false_iff, beq_eq_false_iff_ne, and_assoc]

/-! ## The row of an access -/

theorem decodeAccess_read_of_unknown {off : Nat} (unknown : decodeOffset off = .unknown) (size : Nat) :
    decodeAccess (.read off size) = .rdUnknown off := by
  simp only [decodeAccess, unknown]

theorem decodeAccess_write_of_unknown {off : Nat} (unknown : decodeOffset off = .unknown) (size : Nat) (v : Word) :
    decodeAccess (.write off size v) = .wrUnknown off v := by
  simp only [decodeAccess, unknown]

theorem decodeAccess_read_size (off n m : Nat) : decodeAccess (.read off n) = decodeAccess (.read off m) := rfl

theorem decodeAccess_write_size (off n m : Nat) (v : Word) :
    decodeAccess (.write off n v) = decodeAccess (.write off m v) := rfl

theorem decodeAccess_write_data (off size : Nat) (v : Word) : (decodeAccess (.write off size v)).data = v := by
  simp only [decodeAccess]
  cases decodeOffset off <;> rfl

end Sys2Proof

namespace Sys2Proof.Machine

/-! ## A read and its repetition -/

section Reads

variable {target : Target} {f : DeviceState → DeviceState} {i : Instr} {s t : State}

theorem gatedRead_response_enabled (en : s.device.enabled = true) :
    (gatedRead target f s).response = some (s.device.backing target) := by
  rw [gatedRead_enabled en]

theorem gatedRead_unknown_response : (gatedRead .unknown f s).response = some 0 := by
  cases en : s.device.enabled with
  | true => rw [gatedRead_enabled en]; rfl
  | false => rw [gatedRead_disabled en]

theorem gatedRead_keep_device : (gatedRead target .keep s).device = s.device := by
  cases en : s.device.enabled with
  | true => rw [gatedRead_enabled en]; rfl
  | false => rw [gatedRead_disabled en]

/-- What a read does to the block and what it yields depend on the block alone. -/
theorem gatedRead_of_same_block {s' : State} (same : s'.device = s.device) :
    (gatedRead target f s').device = (gatedRead target f s).device ∧
    (gatedRead target f s').response = (gatedRead target f s).response := by
  cases en : s.device.enabled with
  | true =>
    have en' : s'.device.enabled = true := by rw [same, en]
    rw [gatedRead_enabled en, gatedRead_enabled en', same]
    exact ⟨rfl, rfl⟩
  | false =>
    have en' : s'.device.enabled = false := by rw [same, en]
    rw [gatedRead_disabled en, gatedRead_disabled en']
    exact ⟨same, rfl⟩

/-- The block after a transaction and what it yields are determined by the block before it. -/
theorem exec_of_same_block {s' t' : State} (same : s'.device = s.device)
    (h : exec i s = .next t) (h' : exec i s' = .next t') : t'.device = t.device ∧ t'.response = t.response := by
  cases i with
  | rdId | rdInit | rdCmd | rdIntStatus | rdUnknown _ => cases h; cases h'; exact gatedRead_of_same_block same
  | wrId _ | wrIntStatus _ | wrUnknown _ _ => cases h; cases h'; exact ⟨same, rfl⟩
  | wrInit v => cases h; cases h'; exact ⟨congrArg (DeviceState.storeEnable v) same, rfl⟩
  | wrCmd v => cases h; cases h'; exact ⟨congrArg (DeviceState.enqueueCommand v) same, rfl⟩

/-- Only a status read that passes the gate has an effect on the block (20_memory.md R42). -/
theorem exec_read_keeps_block (h : exec i s = .next t) (read : i.isWrite = false)
    (quiet : i ≠ .rdIntStatus ∨ s.device.enabled = false) : t.device = s.device := by
  obtain unchanged | ⟨rfl, en, -⟩ | ⟨v, rfl, -⟩ | ⟨v, rfl, -⟩ := exec_device_cases h
  · exact unchanged
  · obtain other | disabled := quiet
    · exact absurd rfl other
    · exact absurd (disabled.symm.trans en) Bool.false_ne_true
  · cases read
  · cases read

theorem exec_rdIntStatus_enabled (en : s.device.enabled = true) (h : exec .rdIntStatus s = .next t) :
    t.device = s.device.deassertLine ∧ t.response = some s.device.statusFlags := by
  cases h
  rw [gatedRead_enabled en]
  exact ⟨rfl, rfl⟩

end Reads

/-! ## Steps on accesses, from the core's side and from the bus -/

section Routing

variable {addr : Nat}

theorem busInRegion_iff : busInRegion addr = true ↔ Config.mmioBase ≤ addr ∧ addr < Config.mmioBase + 0x200 := by
  unfold busInRegion
  rw [Bool.and_eq_true, decide_eq_true_iff, decide_eq_true_iff]
  rfl

theorem busInRegion_eq_false_iff :
    busInRegion addr = false ↔ addr < Config.mmioBase ∨ Config.mmioBase + 0x200 ≤ addr := by
  rw [Bool.eq_false_iff, Ne, busInRegion_iff]
  omega

theorem routeBus_read_inside (inside : busInRegion addr = true) (size : Nat) :
    routeBus (.read addr size) = some (.read (addr - Config.mmioBase) size) := if_pos inside

theorem routeBus_write_inside (inside : busInRegion addr = true) (size : Nat) (bytes : List Byte) :
    routeBus (.write addr size bytes) =
      some (.write (addr - Config.mmioBase) size (Config.hostWdataToU32 Config.hostEndian bytes size)) := if_pos inside

theorem routeBus_outside {b : BusAccess} (outside : busInRegion b.addr = false) : routeBus b = none :=
  if_neg (Bool.eq_false_iff.mp outside)

variable {a a' : Access} {b : BusAccess} (s : State) (rest : List HostEvent)

theorem step_pending_cons (e : HostEvent) :
    step { s with pending := e :: rest } = runEvent e { s with pending := rest } := step_of_event rfl

theorem acceptAccess_of_same_row (row : decodeAccess a = decodeAccess a') : acceptAccess a s = acceptAccess a' s := by
  simp only [acceptAccess, row]

theorem step_access_of_same_row (row : decodeAccess a = decodeAccess a') :
    step { s with pending := .access a :: rest } = step { s with pending := .access a' :: rest } := by
  rw [step_pending_cons, step_pending_cons]
  exact acceptAccess_of_same_row _ row

theorem runEvent_bus_of_some (routed : routeBus b = some a) : runEvent (.bus b) s = runEvent (.access a) s := by
  simp only [runEvent, routed]

theorem runEvent_bus_of_none (unrouted : routeBus b = none) :
    runEvent (.bus b) s = .next { s with response := none } := by
  simp only [runEvent, unrouted, State.respondNothing]

theorem step_bus_of_some (routed : routeBus b = some a) :
    step { s with pending := .bus b :: rest } = step { s with pending := .access a :: rest } := by
  rw [step_pending_cons, step_pending_cons, runEvent_bus_of_some _ routed]

theorem step_bus_of_none (unrouted : routeBus b = none) :
    step { s with pending := .bus b :: rest } = .next { s with pending := rest, response := none } :=
  (step_pending_cons s rest (.bus b)).trans (runEvent_bus_of_none _ unrouted)

end Routing

end Sys2Proof.Machine
end

section
/-! The statements on memory (20_memory.md): the side effects of each access, the address decoder, the size of an
access, and the routing of bus accesses. -/

namespace Sys2Proof.Proofs.Memory

open Sys2Proof Sys2Proof.Machine

/-- Settles O21: a read that leaves the block finds it again when repeated, and a transaction's outcome depends on the
block alone; a status read that passes the gate leaves the gate and the status, so it passes and yields the same. -/
theorem accessSideEffectsAndIdempotency : Obligations.AccessSideEffectsAndIdempotency := by
  refine ⟨?_, ?_, ?_, ?_, ?_⟩
  · intro i s t h read quiet
    have unchanged := exec_read_keeps_block h read quiet
    exact ⟨unchanged, fun u repeated => exec_of_same_block unchanged h repeated⟩
  · intro s t en h
    obtain ⟨lowered, yielded⟩ := exec_rdIntStatus_enabled en h
    have stillEnabled : t.device.enabled = true := by rw [lowered]; exact en
    refine ⟨by rw [lowered]; rfl, fun u repeated => ?_⟩
    obtain ⟨loweredAgain, yieldedAgain⟩ := exec_rdIntStatus_enabled stillEnabled repeated
    rw [loweredAgain, yieldedAgain, yielded, lowered]
    exact ⟨rfl, rfl⟩
  · intro s t v h
    cases h
    rfl
  · intro s t v h
    cases h
    refine ⟨rfl, rfl, fun u repeated => ?_⟩
    cases repeated
    rfl
  · rintro s t off v (h | h | h) <;> cases h <;> rfl

/-- Settles O24: each offset is one of the four or names no register, and decodes accordingly; the two UNKNOWN rows
leave the block, and a read of theirs yields 0 on both sides of the gate. -/
theorem addressDecoderIsExactAndTotal : Obligations.AddressDecoderIsExactAndTotal := by
  refine ⟨fun off => ?_, fun off size v s unknown => ?_⟩
  · rw [← offsetNamesRegister_eq_false_iff]
    obtain ⟨rfl, -⟩ | ⟨rfl, -⟩ | ⟨rfl, -⟩ | ⟨rfl, -⟩ | ⟨namesNone, unknown⟩ :=
      decodeOffset_cases off
    · decide
    · decide
    · decide
    · decide
    · simp [namesNone, unknown, offsetNamesRegister_eq_false_iff.mp namesNone]
  · rw [decodeAccess_read_of_unknown unknown, decodeAccess_write_of_unknown unknown]
    exact ⟨⟨_, rfl, gatedRead_unknown_response, gatedRead_keep_device⟩, _, rfl, rfl⟩

/-- Settles O25: the size is no part of an access's row, and a read that passes the gate yields its whole register. -/
theorem accessSizeIsIgnored : Obligations.AccessSizeIsIgnored := by
  refine ⟨fun off n m v s rest => ⟨?_, ?_⟩, decodeAccess_write_data, fun n s en => ?_⟩
  · exact step_access_of_same_row s rest (decodeAccess_read_size off n m)
  · exact step_access_of_same_row s rest (decodeAccess_write_size off n m v)
  · exact ⟨_, _, _, _, rfl, gatedRead_response_enabled en, rfl, gatedRead_response_enabled en,
      rfl, gatedRead_response_enabled en, rfl, gatedRead_response_enabled en⟩

/-- Settles O38: the host routes a bus access by the region, to the access at its offset or to none, and the step runs
what it routes to. -/
theorem busAccessesAreRoutedByTheRegion : Obligations.BusAccessesAreRoutedByTheRegion := by
  refine fun s rest addr size bytes => ⟨fun fromBase belowEnd => ?_, fun outside => ?_⟩
  · have inside : busInRegion addr = true := busInRegion_iff.mpr ⟨fromBase, belowEnd⟩
    exact ⟨step_bus_of_some s rest (routeBus_read_inside inside size),
      step_bus_of_some s rest (routeBus_write_inside inside size bytes)⟩
  · have outside' : busInRegion addr = false := busInRegion_eq_false_iff.mpr outside
    exact ⟨step_bus_of_none s rest (routeBus_outside outside'), step_bus_of_none s rest (routeBus_outside outside')⟩

end Sys2Proof.Proofs.Memory
end

section
/-! What the proofs on encoding share: the word built from an instruction's direction, offset and data, the row of each
access, the decoder of numbers, the opcode table on built words, and the step after a word is presented. -/

namespace Sys2Proof

/-! ## The instruction of an access -/

theorem decodeAccess_read_fields (off size : Nat) :
    (decodeAccess (.read off size)).isWrite = false ∧ (decodeAccess (.read off size)).offset = off ∧
    (decodeAccess (.read off size)).data = 0 := by
  obtain ⟨rfl, -⟩ | ⟨rfl, -⟩ | ⟨rfl, -⟩ | ⟨rfl, -⟩ | ⟨-, unknown⟩ := decodeOffset_cases off
  case inr.inr.inr.inr => rw [decodeAccess_read_of_unknown unknown]; exact ⟨rfl, rfl, rfl⟩
  all_goals exact ⟨rfl, rfl, rfl⟩

theorem decodeAccess_write_fields (off size : Nat) (v : Word) :
    (decodeAccess (.write off size v)).isWrite = true ∧ (decodeAccess (.write off size v)).offset = off := by
  obtain ⟨rfl, -⟩ | ⟨rfl, -⟩ | ⟨rfl, -⟩ | ⟨rfl, -⟩ | ⟨-, unknown⟩ := decodeOffset_cases off
  case inr.inr.inr.inr => rw [decodeAccess_write_of_unknown unknown]; exact ⟨rfl, rfl⟩
  all_goals exact ⟨rfl, rfl⟩

theorem decodeAccess_write_mnemonic (off size : Nat) (v v' : Word) :
    (decodeAccess (.write off size v)).mnemonic = (decodeAccess (.write off size v')).mnemonic := by
  simp only [decodeAccess]
  cases decodeOffset off <;> rfl

theorem decodeAccess_read_wf {off : Nat} (inRegion : off < 0x200) (size : Nat) :
    (decodeAccess (.read off size)).wf = true := by
  obtain ⟨rfl, -⟩ | ⟨rfl, -⟩ | ⟨rfl, -⟩ | ⟨rfl, -⟩ | ⟨namesNone, unknown⟩ := decodeOffset_cases off
  case inr.inr.inr.inr =>
    rw [decodeAccess_read_of_unknown unknown]
    exact unknownOffsetOk_iff.mpr ⟨inRegion, namesNone⟩
  all_goals rfl

theorem decodeAccess_write_wf {off : Nat} (inRegion : off < 0x200) (size : Nat) (v : Word) :
    (decodeAccess (.write off size v)).wf = true := by
  obtain ⟨rfl, -⟩ | ⟨rfl, -⟩ | ⟨rfl, -⟩ | ⟨rfl, -⟩ | ⟨namesNone, unknown⟩ := decodeOffset_cases off
  case inr.inr.inr.inr =>
    rw [decodeAccess_write_of_unknown unknown]
    exact unknownOffsetOk_iff.mpr ⟨inRegion, namesNone⟩
  all_goals rfl

section WellFormed

variable {i : Instr}

theorem Instr.offset_lt_of_wf (wf : i.wf = true) : i.offset < 0x200 := by
  cases i with
  | rdUnknown off | wrUnknown off _ => exact (unknownOffsetOk_iff.mp wf).1
  | rdId | rdInit | rdCmd | rdIntStatus | wrId _ | wrInit _ | wrCmd _ | wrIntStatus _ => simp [Instr.offset]

/-- A well-formed read is the row of the read access at its offset. -/
theorem decodeAccess_read_of_wf (wf : i.wf = true) (read : i.isWrite = false) (size : Nat) :
    decodeAccess (.read i.offset size) = i := by
  cases i with
  | rdUnknown off =>
    obtain ⟨-, namesNone⟩ := unknownOffsetOk_iff.mp wf
    exact decodeAccess_read_of_unknown (decodeOffset_of_names_none namesNone) size
  | rdId | rdInit | rdCmd | rdIntStatus => rfl
  | wrId _ | wrInit _ | wrCmd _ | wrIntStatus _ | wrUnknown _ _ => cases read

/-- A well-formed write is the row of the write access of its data at its offset. -/
theorem decodeAccess_write_of_wf (wf : i.wf = true) (write : i.isWrite = true) (size : Nat) :
    decodeAccess (.write i.offset size i.data) = i := by
  cases i with
  | wrUnknown off v =>
    obtain ⟨-, namesNone⟩ := unknownOffsetOk_iff.mp wf
    exact decodeAccess_write_of_unknown (decodeOffset_of_names_none namesNone) size v
  | wrId _ | wrInit _ | wrCmd _ | wrIntStatus _ => rfl
  | rdId | rdInit | rdCmd | rdIntStatus | rdUnknown _ => cases write

end WellFormed

/-! ## Words and their instructions -/

/-- Every word is a read's or a write's (30_encoding.md R48). -/
theorem buildWord_cases (w : TxWord) :
    (∃ off data, w = buildWord 0#1 off data) ∨ ∃ off data, w = buildWord 1#1 off data := by
  have built := buildWord_fields w
  obtain read | write := BitVec.eq_zero_or_eq_one (wordDir w)
  · rw [read] at built; exact .inl ⟨_, _, built.symm⟩
  · rw [write] at built; exact .inr ⟨_, _, built.symm⟩

theorem decodeWord_buildWord_read (off : BitVec 9) (data : Word) :
    decodeWord (buildWord 0#1 off data) = decodeAccess (.read off.toNat wordSize) := by
  simp [decodeWord, accessOfWord]

theorem decodeWord_buildWord_write (off : BitVec 9) (data : Word) :
    decodeWord (buildWord 1#1 off data) = decodeAccess (.write off.toNat wordSize data) := by
  simp [decodeWord, accessOfWord]

theorem decodeWord_wf (w : TxWord) : (decodeWord w).wf = true := by
  obtain ⟨off, data, rfl⟩ | ⟨off, data, rfl⟩ := buildWord_cases w
  · rw [decodeWord_buildWord_read]; exact decodeAccess_read_wf off.isLt wordSize
  · rw [decodeWord_buildWord_write]; exact decodeAccess_write_wf off.isLt wordSize data

theorem encode_eq_buildWord (i : Instr) :
    encode i = buildWord (BitVec.ofBool i.isWrite) (BitVec.ofNat 9 i.offset) i.data := by
  cases i <;> rfl

/-- A well-formed instruction's word decodes to it (30_encoding.md R48, R51). -/
theorem decodeWord_encode {i : Instr} (wf : i.wf = true) : decodeWord (encode i) = i := by
  have offset : (BitVec.ofNat 9 i.offset).toNat = i.offset := by
    rw [BitVec.toNat_ofNat, Nat.mod_eq_of_lt (Instr.offset_lt_of_wf wf)]
  rw [encode_eq_buildWord]
  cases direction : i.isWrite with
  | false =>
    calc decodeWord (buildWord 0#1 (BitVec.ofNat 9 i.offset) i.data)
        = decodeAccess (.read i.offset wordSize) := by rw [decodeWord_buildWord_read, offset]
      _ = i := decodeAccess_read_of_wf wf direction wordSize
  | true =>
    calc decodeWord (buildWord 1#1 (BitVec.ofNat 9 i.offset) i.data)
        = decodeAccess (.write i.offset wordSize i.data) := by rw [decodeWord_buildWord_write, offset]
      _ = i := decodeAccess_write_of_wf wf direction wordSize

/-- A word whose DATA field meets 30_encoding.md R48 is the word of its instruction. -/
theorem encode_decodeWord {w : TxWord} (canonical : wordCanonical w = true) : encode (decodeWord w) = w := by
  obtain ⟨off, data, rfl⟩ | ⟨off, data, rfl⟩ := buildWord_cases w
  · have dataZero : data = 0 := by simpa [wordCanonical] using canonical
    obtain ⟨direction, offset, noData⟩ := decodeAccess_read_fields off.toNat wordSize
    rw [decodeWord_buildWord_read, encode_eq_buildWord, direction, offset, noData, dataZero, BitVec.ofNat_toNat,
      BitVec.setWidth_eq]
    rfl
  · obtain ⟨direction, offset⟩ := decodeAccess_write_fields off.toNat wordSize data
    rw [decodeWord_buildWord_write, encode_eq_buildWord, direction, offset, decodeAccess_write_data,
      BitVec.ofNat_toNat, BitVec.setWidth_eq]
    rfl

/-! ## The selector -/

theorem wordSel_eq_append (w : TxWord) : wordSel w = wordDir w ++ wordOff w := by
  apply BitVec.eq_of_toNat_eq
  rw [wordSel_toNat, BitVec.toNat_append, ← Nat.shiftLeft_add_eq_or_of_lt (wordOff w).isLt, Nat.shiftLeft_eq]

theorem wordSel_eq_iff {w x : TxWord} : wordSel w = wordSel x ↔ wordDir w = wordDir x ∧ wordOff w = wordOff x := by
  simp only [← BitVec.toNat_inj, wordSel_toNat]
  have offBound := (wordOff w).isLt
  have offBound' := (wordOff x).isLt
  omega

/-- The mnemonic is picked without the DATA field (30_encoding.md R49). -/
theorem decodeWord_mnemonic_of_sel_eq {w x : TxWord} (same : wordSel w = wordSel x) :
    (decodeWord w).mnemonic = (decodeWord x).mnemonic := by
  obtain ⟨dir, off⟩ := wordSel_eq_iff.mp same
  unfold decodeWord accessOfWord
  rw [dir, off]
  split
  · exact decodeAccess_write_mnemonic _ _ _ _
  · rfl

/-! ## The decoder of numbers -/

section Numbers

variable {n nbits : Nat}

theorem decodeNat_of_lt (fits : n < 2 ^ 42) : decodeNat n = .ok (decodeWord (BitVec.ofNat 42 n)) := by
  simp only [decodeNat, txWordOfNat, if_pos fits]

theorem decodeNat_of_ge (wider : 2 ^ 42 ≤ n) : decodeNat n = .error .widerThanTransaction := by
  simp only [decodeNat, txWordOfNat, if_neg (Nat.not_lt.mpr wider)]

theorem decodeTableWord_toNat (w : TxWord) : decodeTableWord 42 w.toNat = some (decodeWord w) := by
  simp only [decodeTableWord, Nat.mod_eq_of_lt w.isLt, decodeNat_of_lt w.isLt, BitVec.ofNat_toNat, BitVec.setWidth_eq]

/-- The table decoder reads an instruction from a number exactly when it holds a word of that instruction. -/
theorem decodeTableWord_eq_some_iff {i : Instr} :
    decodeTableWord nbits n = some i ↔ ∃ w, txWordOfNat (n % 2 ^ nbits) = .ok w ∧ decodeWord w = i := by
  simp only [decodeTableWord, decodeNat]
  cases txWordOfNat (n % 2 ^ nbits) <;> simp

end Numbers

/-! ## The opcode table -/

section Table

variable {w x : TxWord} {r : TableRow}

theorem word_ext (dir : wordDir w = wordDir x) (off : wordOff w = wordOff x) (data : wordData w = wordData x) :
    w = x := by
  rw [← buildWord_fields w, ← buildWord_fields x, dir, off, data]

theorem wordDir_and (w x : TxWord) : wordDir (w &&& x) = wordDir w &&& wordDir x := BitVec.extractLsb'_and

theorem wordOff_and (w x : TxWord) : wordOff (w &&& x) = wordOff w &&& wordOff x := BitVec.extractLsb'_and

theorem wordData_and (w x : TxWord) : wordData (w &&& x) = wordData w &&& wordData x := BitVec.extractLsb'_and

theorem rowMatches_iff : rowMatches w r = true ↔ w &&& r.mask = r.pattern := beq_iff_eq

/-- A row that masks DATA away sees no more of a word than its direction and its masked offset. -/
theorem rowMatches_congr (masksData : wordData r.mask = 0#32) (dir : wordDir w = wordDir x)
    (off : wordOff w &&& wordOff r.mask = wordOff x &&& wordOff r.mask) : rowMatches w r = rowMatches x r := by
  have sameBits : w &&& r.mask = x &&& r.mask := by
    apply word_ext
    · rw [wordDir_and, wordDir_and, dir]
    · rw [wordOff_and, wordOff_and, off]
    · rw [wordData_and, wordData_and, masksData, BitVec.and_zero, BitVec.and_zero]
  rw [rowMatches, sameBits, rowMatches]

/-- The exact rows compare the whole selector, each with a register's offset (opcode_table.json). -/
theorem exactRows_shape : ∀ r ∈ exactRows, wordData r.mask = 0#32 ∧ wordOff r.mask = BitVec.allOnes 9 ∧
    offsetNamesRegister (wordOff r.pattern).toNat = true := by decide

/-- The default rows compare the direction alone (opcode_table.json). -/
theorem defaultRows_shape : ∀ r ∈ defaultRows, wordData r.mask = 0#32 ∧ wordOff r.mask = 0#9 := by decide

theorem exactRows_filter_congr (same : wordSel w = wordSel x) :
    exactRows.filter (rowMatches w) = exactRows.filter (rowMatches x) := by
  obtain ⟨dir, off⟩ := wordSel_eq_iff.mp same
  refine List.filter_congr fun r mem => ?_
  obtain ⟨masksData, -, -⟩ := exactRows_shape r mem
  exact rowMatches_congr masksData dir (by rw [off])

theorem defaultRows_filter_congr (dir : wordDir w = wordDir x) :
    defaultRows.filter (rowMatches w) = defaultRows.filter (rowMatches x) := by
  refine List.filter_congr fun r mem => ?_
  obtain ⟨masksData, masksOff⟩ := defaultRows_shape r mem
  exact rowMatches_congr masksData dir (by rw [masksOff, BitVec.and_zero, BitVec.and_zero])

theorem exactRows_filter_of_names_none (namesNone : offsetNamesRegister (wordOff w).toNat = false) :
    exactRows.filter (rowMatches w) = [] := by
  refine List.filter_eq_nil_iff.mpr fun r mem isMatch => ?_
  obtain ⟨-, keepsOff, register⟩ := exactRows_shape r mem
  have sameOff : wordOff w = wordOff r.pattern := by
    rw [← rowMatches_iff.mp isMatch, wordOff_and, keepsOff, BitVec.and_allOnes]
  rw [← sameOff, namesNone] at register
  cases register

/-- The table is looked up without the DATA field (30_encoding.md R49). -/
theorem tableLookup_of_sel_eq (same : wordSel w = wordSel x) : tableLookup w = tableLookup x := by
  obtain ⟨dir, -⟩ := wordSel_eq_iff.mp same
  rw [tableLookup, exactRows_filter_congr same, defaultRows_filter_congr dir, tableLookup]

/-- A word whose offset names no register falls under the default row of its direction (30_encoding.md R51). -/
theorem tableLookup_of_names_none (namesNone : offsetNamesRegister (wordOff w).toNat = false)
    (dir : wordDir w = wordDir x) : tableLookup w = (defaultRows.filter (rowMatches x)).map TableRow.mnemonic := by
  rw [tableLookup, exactRows_filter_of_names_none namesNone, defaultRows_filter_congr dir]

/-- An offset field holds a register's offset, or names none (20_memory.md R36). -/
theorem offsetField_cases (off : BitVec 9) :
    off = 0x0#9 ∨ off = 0x4#9 ∨ off = 0x8#9 ∨ off = 0xC#9 ∨
    (offsetNamesRegister off.toNat = false ∧ decodeOffset off.toNat = .unknown) := by
  simp only [← BitVec.toNat_inj]
  obtain ⟨named, -⟩ | ⟨named, -⟩ | ⟨named, -⟩ | ⟨named, -⟩ | unnamed := decodeOffset_cases off.toNat
  · exact .inl named
  · exact .inr (.inl named)
  · exact .inr (.inr (.inl named))
  · exact .inr (.inr (.inr (.inl named)))
  · exact .inr (.inr (.inr (.inr unnamed)))

/-- The words without data: four register words of each direction, and in each direction the other offsets. -/
theorem tableLookup_buildWord_zero (dir : BitVec 1) (off : BitVec 9) :
    tableLookup (buildWord dir off 0#32) = [(decodeWord (buildWord dir off 0#32)).mnemonic] := by
  obtain rfl | rfl | rfl | rfl | ⟨namesNone, unknown⟩ := offsetField_cases off
  case inr.inr.inr.inr =>
    rw [tableLookup_of_names_none (x := buildWord dir 0#9 0#32) (by simpa using namesNone) (by simp)]
    obtain rfl | rfl := BitVec.eq_zero_or_eq_one dir
    · rw [decodeWord_buildWord_read, decodeAccess_read_of_unknown unknown]; rfl
    · rw [decodeWord_buildWord_write, decodeAccess_write_of_unknown unknown]; rfl
  all_goals revert dir; decide

/-- Every word falls under exactly the row of its instruction (30_encoding.md R51). -/
theorem tableLookup_eq (w : TxWord) : tableLookup w = [(decodeWord w).mnemonic] := by
  have same : wordSel w = wordSel (buildWord (wordDir w) (wordOff w) 0#32) := by simp [wordSel_eq_iff]
  rw [tableLookup_of_sel_eq same, decodeWord_mnemonic_of_sel_eq same]
  exact tableLookup_buildWord_zero (wordDir w) (wordOff w)

end Table

end Sys2Proof

namespace Sys2Proof.Machine

/-! ## A disabled read, and a presented word -/

/-- While the device is disabled every read row does the gated branch (40_read.md R55). -/
theorem exec_read_disabled {i : Instr} {s : State} (read : i.isWrite = false) (disabled : s.device.enabled = false) :
    exec i s = .next { s with response := some 0, traceEvents := s.traceEvents + 1 } := by
  cases i with
  | rdId | rdInit | rdCmd | rdIntStatus | rdUnknown _ => exact congrArg Host.Outcome.next (gatedRead_disabled disabled)
  | wrId _ | wrInit _ | wrCmd _ | wrIntStatus _ | wrUnknown _ _ => cases read

theorem withFetchWord_of_ok {nbits n : Nat} {w : TxWord} (s : State) (fits : txWordOfNat (n % 2 ^ nbits) = .ok w) :
    s.withFetchWord nbits n = presentFirst (accessOfWord w) s := by
  simp only [State.withFetchWord, presentWord, fits]

/-- An access presented first finds the reset input low and is what the next step runs (log entry 2). -/
theorem step_presentFirst (a : Access) (s : State) :
    step (presentFirst a s) = exec (decodeAccess a) { s with resetInput := false } :=
  calc step (presentFirst a s)
      = runEvent (.access a) { s with resetInput := false } := step_of_event rfl
    _ = exec (decodeAccess a) { s with resetInput := false } := acceptAccess_accepted rfl

end Sys2Proof.Machine
end

section
/-! The statements on encoding (30_encoding.md): the word and its instruction, the selector and the opcode table, the
decoder of numbers, and the step that runs a presented word. -/

namespace Sys2Proof.Proofs.Encoding

open Sys2Proof Sys2Proof.Machine

/-- Settles O28: the word carries the instruction's direction, offset and data, and a well-formed instruction is the
row of the access they make. -/
theorem decodeOfEncodeIsTheInstruction : Obligations.DecodeOfEncodeIsTheInstruction := by
  intro i wf
  have roundTrip : decodeWord (encode i) = i := decodeWord_encode wf
  exact ⟨roundTrip, by rw [decodeTableWord_toNat, roundTrip]⟩

/-- Settles O26: the selector is the two fields side by side, and neither direction reads DATA to pick the row. -/
theorem selectorAlonePicksTheRow : Obligations.SelectorAlonePicksTheRow :=
  ⟨wordSel_eq_append, fun _ _ same => decodeWord_mnemonic_of_sel_eq same⟩

/-- Settles O29: an offset field is within the region, and the decoded instruction has the word's direction, its offset
and, where DATA meets R48, its data. -/
theorem encodeOfDecodeIsTheWord : Obligations.EncodeOfDecodeIsTheWord :=
  fun w => ⟨decodeWord_wf w, encode_decodeWord⟩

/-- Settles O30: table and decoder both read the selector alone, and on the words without data they agree. -/
theorem everyWordFallsUnderExactlyItsTableRow : Obligations.EveryWordFallsUnderExactlyItsTableRow :=
  ⟨tableLookup_eq, fun _ _ read disabled => exec_read_disabled read disabled⟩

/-- Settles O27: with direction 0 the word spells the read at its offset, whatever DATA holds. -/
theorem readWordsIgnoreData : Obligations.ReadWordsIgnoreData := by
  intro off data
  calc decodeWord (buildWord 0#1 off data)
      = decodeAccess (.read off.toNat wordSize) := decodeWord_buildWord_read off data
    _ = decodeWord (buildWord 0#1 off 0#32) := (decodeWord_buildWord_read off 0#32).symm

/-- Settles O31, by evaluating the decoder on each of the five words. -/
theorem writtenWordsDecode : Obligations.WrittenWordsDecode := by
  refine ⟨?_, ?_, ?_, ?_, ?_⟩ <;> decide

/-- Settles O32: a number below 2 ^ 42 is a word, which decodes to a well-formed instruction. -/
theorem decoderRefusesOnlyWiderNumbers : Obligations.DecoderRefusesOnlyWiderNumbers :=
  fun _ => ⟨fun fits => ⟨_, decodeNat_of_lt fits, decodeWord_wf _⟩, decodeNat_of_ge⟩

/-- Settles O34: the number holds a word of the instruction, and the access it spells is presented first. -/
theorem stepRunsThePresentedWord : Obligations.StepRunsThePresentedWord := by
  intro s nbits n i reads
  obtain ⟨w, fits, rfl⟩ := decodeTableWord_eq_some_iff.mp reads
  rw [withFetchWord_of_ok s fits]
  exact step_presentFirst (accessOfWord w) s

end Sys2Proof.Proofs.Encoding
end

section
/-! What the proofs on reads share: the row of a read access as one gated read, the spec's two functions beside it, what
a read can yield, and the registers after a history. -/

namespace Sys2Proof.Machine

/-! ## The row of an access, and the spec's functions read and write -/

section Paths

variable {d : DeviceState} {s : State}

/-- What an enabled read of a target does to the block: at INT_STATUS it lowers the line, elsewhere nothing
(40_read.md R55). -/
def readEffect : Target → DeviceState → DeviceState
  | .intStatus => .deassertLine
  | .id | .init | .cmd | .unknown => .keep

theorem exec_decodeAccess_read (off size : Nat) (s : State) :
    exec (decodeAccess (.read off size)) s =
      .next (gatedRead (decodeOffset off) (readEffect (decodeOffset off)) s) := by
  simp only [decodeAccess]
  cases decodeOffset off <;> rfl

theorem exec_decodeAccess_read_enabled (off size : Nat) (en : s.device.enabled = true) :
    exec (decodeAccess (.read off size)) s =
      .next { s with device := readEffect (decodeOffset off) s.device
                     response := some (s.device.backing (decodeOffset off)) } := by
  rw [exec_decodeAccess_read, gatedRead_enabled en]

theorem exec_decodeAccess_read_disabled (off size : Nat) (disabled : s.device.enabled = false) :
    exec (decodeAccess (.read off size)) s =
      .next { s with response := some 0, traceEvents := s.traceEvents + 1 } := by
  rw [exec_decodeAccess_read, gatedRead_disabled disabled]

theorem exec_decodeAccess_write (off size : Nat) (v : Word) (s : State) :
    exec (decodeAccess (.write off size v)) s =
      .next { s with device := s.device.write off v, response := none } := by
  simp only [decodeAccess, DeviceState.write]
  cases decodeOffset off <;> rfl

theorem DeviceState.read_enabled (off : Nat) (en : d.enabled = true) :
    d.read off = ⟨readEffect (decodeOffset off) d, d.backing (decodeOffset off), false⟩ := by
  have passes : ¬ d.enableFlags.getLsbD 0 = false := (Bool.not_eq_false _).mpr en
  rw [DeviceState.read, if_neg passes]
  cases decodeOffset off <;> rfl

theorem DeviceState.read_disabled (off : Nat) (disabled : d.enabled = false) : d.read off = ⟨d, 0, true⟩ :=
  if_pos disabled

end Paths

/-! ## What a read yields -/

section Yields

variable {target : Target} {i : Instr} {s : State}

theorem gatedRead_keep_enabled (en : s.device.enabled = true) :
    gatedRead target .keep s = { s with response := some (s.device.backing target) } := gatedRead_enabled en

theorem exec_rdId_enabled (en : s.device.enabled = true) :
    exec .rdId s = .next { s with response := some s.device.id } :=
  congrArg Host.Outcome.next (gatedRead_keep_enabled en)

theorem exec_rdInit_enabled (en : s.device.enabled = true) :
    exec .rdInit s = .next { s with response := some s.device.enableFlags } :=
  congrArg Host.Outcome.next (gatedRead_keep_enabled en)

theorem exec_rdCmd_enabled (en : s.device.enabled = true) :
    exec .rdCmd s = .next { s with response := some s.device.commandBuffer } :=
  congrArg Host.Outcome.next (gatedRead_keep_enabled en)

theorem exec_rdUnknown_enabled (off : Nat) (en : s.device.enabled = true) :
    exec (.rdUnknown off) s = .next { s with response := some 0 } :=
  congrArg Host.Outcome.next (gatedRead_keep_enabled en)

/-- Every read row is a read of some target behind the gate (40_read.md R55). -/
theorem exec_read_eq_gatedRead (read : i.isWrite = false) (s : State) :
    ∃ target effect, exec i s = .next (gatedRead target effect s) := by
  cases i with
  | rdId | rdInit | rdCmd | rdIntStatus | rdUnknown _ => exact ⟨_, _, rfl⟩
  | wrId _ | wrInit _ | wrCmd _ | wrIntStatus _ | wrUnknown _ _ => cases read

theorem DeviceState.backing_cases (d : DeviceState) (target : Target) :
    d.backing target = 0 ∨ d.backing target = d.id ∨ d.backing target = d.enableFlags ∨
    d.backing target = d.commandBuffer ∨ d.backing target = d.statusFlags := by
  cases target with
  | unknown => exact .inl rfl
  | id => exact .inr (.inl rfl)
  | init => exact .inr (.inr (.inl rfl))
  | cmd => exact .inr (.inr (.inr (.inl rfl)))
  | intStatus => exact .inr (.inr (.inr (.inr rfl)))

end Yields

/-! ## The acknowledged line -/

section Line

variable {d : DeviceState}

theorem DeviceState.fsm_eq_idle_iff :
    d.fsm = some .idle ↔ d.statusFlags = 0 ∧ d.interruptAsserted = false := by
  unfold DeviceState.fsm
  split_ifs <;> simp_all

theorem DeviceState.deassertLine_of_low (low : d.interruptAsserted = false) : d.deassertLine = d := by
  rw [DeviceState.deassertLine, ← low]

end Line

/-! ## The identifier and the command buffer after a history -/

section History

variable {i : Instr} {is : List Instr} {s t : State}

theorem exec_keeps_id (h : exec i s = .next t) : t.device.id = s.device.id := by
  obtain unchanged | ⟨-, -, lineLow⟩ | ⟨v, -, stored⟩ | ⟨v, -, enqueued⟩ := exec_device_cases h
  · rw [unchanged]
  · rw [lineLow, DeviceState.deassertLine_id]
  · rw [stored, DeviceState.storeEnable_id]
  · rw [enqueued, DeviceState.enqueueCommand_id]

theorem execAll_id_and_commandBuffer (h : execAll is s = .next t) :
    t.device.id = s.device.id ∧ t.device.commandBuffer = lastCommand is s.device.commandBuffer := by
  obtain ⟨u, ran, block⟩ := Proofs.BlockState.blockIsDeterminedByItsHistory is s
  cases h.symm.trans ran
  rw [block]
  exact ⟨rfl, rfl⟩

theorem lastCommand_of_no_command (quiet : anyCommand is = false) (before : Word) :
    lastCommand is before = before := by
  induction is with
  | nil => rfl
  | cons i is ih =>
    rw [anyCommand_cons, Bool.or_eq_false_iff, Option.isSome_eq_false_iff, Option.isNone_iff_eq_none] at quiet
    obtain ⟨noCommand, later⟩ := quiet
    rw [lastCommand, noCommand]
    exact ih later

end History

end Sys2Proof.Machine
end

section
/-! The statements on reads (40_read.md): the gate and the decode, the five rows, what a read yields, and the echo of
the identifier and of the last command. -/

namespace Sys2Proof.Proofs.Read

open Sys2Proof Sys2Proof.Machine

/-- Settles O17: on each side of the gate the row of a read access and the function read do the same; a write access
passes no gate. -/
theorem meaningsAreTheTwoPureFunctions : Obligations.MeaningsAreTheTwoPureFunctions := by
  refine fun off size value s => ⟨?_, exec_decodeAccess_write off size value s⟩
  cases en : s.device.enabled with
  | true => rw [exec_decodeAccess_read_enabled off size en, DeviceState.read_enabled off en]; rfl
  | false => rw [exec_decodeAccess_read_disabled off size en, DeviceState.read_disabled off en]; rfl

/-- Settles O49: no history changes the identifier, and a history without a command write leaves the last command. -/
theorem identityAndCommandEcho : Obligations.IdentityAndCommandEcho := by
  refine ⟨fun is s t inv ran en => ?_, fun is v s t quiet ran en => ?_⟩
  · obtain ⟨ident, -, -⟩ := inv
    obtain ⟨sameId, -⟩ := execAll_id_and_commandBuffer ran
    rw [exec_rdId_enabled en, sameId, ident]
    rfl
  · obtain ⟨-, lastWritten⟩ := execAll_id_and_commandBuffer ran
    have echoed : t.device.commandBuffer = v := lastWritten.trans (lastCommand_of_no_command quiet v)
    rw [exec_rdCmd_enabled en, echoed]

/-- Settles O5: past the gate the read yields the identifier, and none of the things a transaction can do to the block
changes it. -/
theorem readIdReturnsTheIdentifier : Obligations.ReadIdReturnsTheIdentifier :=
  ⟨fun _ => rfl, by decide, by decide, fun _ en => exec_rdId_enabled en,
    fun _ disabled => exec_read_disabled rfl disabled, fun _ _ _ h => exec_keeps_id h, rfl⟩

/-- Settles O6: past the gate the read yields the enable register, whose bit 0 is the gate; all ones pass it. -/
theorem readInitReturnsTheEnableRegister : Obligations.ReadInitReturnsTheEnableRegister := by
  refine ⟨fun _ => rfl, by decide, by decide, fun _ en => exec_rdInit_enabled en,
    fun _ disabled => exec_read_disabled rfl disabled, fun s t v en h yielded => ?_, fun s t written => ?_⟩
  · cases h
    rw [gatedRead_response_enabled en] at yielded
    cases yielded
    exact en
  · have onesPass : (0xFFFFFFFF#32).getLsbD 0 = true := by decide
    cases written
    exact exec_rdInit_enabled onesPass

/-- Settles O7: past the gate the read yields the command buffer, which a command write sets on either side of the gate
and an enable write leaves. -/
theorem readCmdReturnsTheCommandBuffer : Obligations.ReadCmdReturnsTheCommandBuffer := by
  refine ⟨fun _ => rfl, by decide, by decide, fun _ en => exec_rdCmd_enabled en,
    fun _ disabled => exec_read_disabled rfl disabled, rfl, fun s t u v e en commanded enabled => ?_⟩
  cases commanded
  cases enabled
  exact exec_rdCmd_enabled en

/-- Settles O8: past the gate the read yields the status and lowers the line, which in IDLE and in ACKED is low
already. -/
theorem readIntStatusAcknowledges : Obligations.ReadIntStatusAcknowledges := by
  refine ⟨fun _ => rfl, by decide, by decide, fun _ en => congrArg Host.Outcome.next (gatedRead_enabled en),
    fun _ disabled => exec_read_disabled rfl disabled, fun s st en inState => ?_⟩
  obtain ⟨lowered, yielded⟩ := exec_rdIntStatus_enabled (s := s) en rfl
  refine ⟨_, rfl, ?_, ?_, ?_⟩ <;> rintro rfl <;> rw [lowered, yielded]
  · obtain ⟨status, low⟩ := DeviceState.fsm_eq_idle_iff.mp inState
    exact ⟨congrArg some status, DeviceState.deassertLine_of_low low⟩
  · obtain ⟨status, -⟩ := DeviceState.fsm_eq_pending_iff.mp inState
    exact ⟨congrArg some status, DeviceState.fsm_eq_acked_iff.mpr ⟨status, rfl⟩⟩
  · obtain ⟨status, low⟩ := DeviceState.fsm_eq_acked_iff.mp inState
    exact ⟨congrArg some status, DeviceState.deassertLine_of_low low⟩

/-- Settles O9: such an offset names no register, so its row is RD_UNKNOWN, which in the region is well-formed and so
the row of its word. -/
theorem readUnknownReturnsZero : Obligations.ReadUnknownReturnsZero := by
  intro off notId notInit notCmd notIntStatus
  have namesNone : offsetNamesRegister off = false :=
    offsetNamesRegister_eq_false_iff.mpr ⟨notId, notInit, notCmd, notIntStatus⟩
  have word : encode (.rdUnknown off) = 0#1 ++ BitVec.ofNat 9 off ++ 0x00000000#32 := rfl
  refine ⟨decodeAccess_read_of_unknown (decodeOffset_of_names_none namesNone), fun inRegion => ⟨word, ?_⟩,
    fun _ en => exec_rdUnknown_enabled off en, fun _ disabled => exec_read_disabled rfl disabled⟩
  rw [← word]
  exact decodeWord_encode (unknownOffsetOk_iff.mpr ⟨inRegion, namesNone⟩)

/-- Settles O15: past the gate the read does what the decoder's target of the offset says, and the target of each
offset is known. -/
theorem readGatesThenDecodes : Obligations.ReadGatesThenDecodes := by
  refine fun off size s => ⟨exec_decodeAccess_read_disabled off size, fun en => ?_, by decide, by decide⟩
  rw [exec_decodeAccess_read_enabled off size en]
  obtain ⟨rfl, -⟩ | ⟨rfl, -⟩ | ⟨rfl, -⟩ | ⟨rfl, -⟩ | ⟨namesNone, unknown⟩ := decodeOffset_cases off
  case inr.inr.inr.inr =>
    obtain ⟨notId, notInit, notCmd, notIntStatus⟩ := offsetNamesRegister_eq_false_iff.mp namesNone
    rw [unknown, if_neg notId, if_neg notInit, if_neg notCmd, if_neg notIntStatus]
    rfl
  all_goals rfl

/-- Settles O18: a read row is a gated read of some target, so it yields 0 or the target's stored pattern. -/
theorem everyReadYieldsAStoredPatternOrZero : Obligations.EveryReadYieldsAStoredPatternOrZero := by
  intro i s read
  obtain ⟨target, effect, ran⟩ := exec_read_eq_gatedRead read s
  cases en : s.device.enabled with
  | true => exact ⟨_, _, ran, gatedRead_response_enabled en, s.device.backing_cases target⟩
  | false => exact ⟨_, 0, ran, by rw [gatedRead_disabled en], .inl rfl⟩

end Sys2Proof.Proofs.Read
end

section
/-! What the proofs on writes share: the word of a write row, the rows and accesses with no effect, what the host sees
after one, and what no transaction takes back. -/

namespace Sys2Proof

/-- The word of a well-formed write row, field by field, and back (30_encoding.md R48, R51). -/
theorem encode_write_and_back {i : Instr} (wf : i.wf = true) (write : i.isWrite = true) :
    encode i = 1#1 ++ BitVec.ofNat 9 i.offset ++ i.data ∧
    decodeWord (1#1 ++ BitVec.ofNat 9 i.offset ++ i.data) = i := by
  have word : encode i = 1#1 ++ BitVec.ofNat 9 i.offset ++ i.data := by rw [encode_eq_buildWord, write]; rfl
  exact ⟨word, word ▸ decodeWord_encode wf⟩

end Sys2Proof

namespace Sys2Proof.Machine

/-! ## Writes with no effect on the block -/

section Ignored

variable {i : Instr} {off : Nat}

/-- A write to neither INIT nor CMD leaves the block (41_write.md R62). -/
theorem exec_ignored_write (write : i.isWrite = true) (noEnable : enableOf i = none) (noCommand : commandOf i = none)
    (s : State) : exec i s = .next { s with response := none } := by
  cases i with
  | wrId _ | wrIntStatus _ | wrUnknown _ _ => rfl
  | wrInit _ => cases noEnable
  | wrCmd _ => cases noCommand
  | rdId | rdInit | rdCmd | rdIntStatus | rdUnknown _ => cases write

theorem DeviceState.write_of_unknown (unknown : decodeOffset off = .unknown) (d : DeviceState) (v : Word) :
    d.write off v = d := by
  simp only [DeviceState.write, unknown]

/-- A write access at an offset that names no register has no effect, accepted or dropped (log entry 10). -/
theorem acceptAccess_write_of_unknown (unknown : decodeOffset off = .unknown) (size : Nat) (v : Word) (s : State) :
    acceptAccess (.write off size v) s = .next { s with response := none } := by
  obtain inReset | released := Bool.eq_false_or_eq_true s.resetInput
  · exact acceptAccess_inReset inReset
  · rw [acceptAccess_accepted released, exec_decodeAccess_write, DeviceState.write_of_unknown unknown]

end Ignored

/-! ## What the host sees next does not depend on what it saw last -/

theorem step_ignores_response {s : State} {e : HostEvent} {rest : List HostEvent} (oldest : s.pending = e :: rest)
    (r : Option Word) : step { s with response := r } = step s :=
  calc step { s with response := r }
      = runEvent e { s with pending := rest, response := r } := step_of_event oldest
    _ = runEvent e { s with pending := rest } := runEvent_ignores_response e { s with pending := rest } r
    _ = step s := (step_of_event oldest).symm

theorem responses_ignores_response (n : Nat) (s : State) (r : Option Word) :
    responses n { s with response := r } = responses n s := by
  by_cases empty : s.pending = []
  · have empty' : State.pending { s with response := r } = [] := empty
    rw [responses_of_empty empty, responses_of_empty empty']
  · obtain ⟨e, rest, oldest⟩ := List.exists_cons_of_ne_nil empty
    cases n with
    | zero => rfl
    | succ n => simp only [responses, step_ignores_response oldest]

/-! ## The identifier as an enabled read shows it -/

theorem exec_rdId_of_id {s : State} {v : Word} (ident : s.device.id = v) (en : s.device.enabled = true) :
    exec .rdId s = .next { s with response := some v } := by
  rw [exec_rdId_enabled en, ident]

/-! ## What no transaction takes back -/

section Kept

variable {i : Instr} {s t : State}

/-- Only a status read that passes the gate lowers the line (41_write.md R66). -/
theorem exec_lowers_line (h : exec i s = .next t) (high : s.device.interruptAsserted = true)
    (low : t.device.interruptAsserted = false) : i = .rdIntStatus ∧ s.device.enabled = true := by
  obtain unchanged | ⟨statusRead, en, -⟩ | ⟨v, -, stored⟩ | ⟨v, -, enqueued⟩ := exec_device_cases h
  · rw [unchanged, high] at low; cases low
  · exact ⟨statusRead, en⟩
  · rw [stored, DeviceState.storeEnable_interruptAsserted, high] at low; cases low
  · rw [enqueued] at low; cases low

theorem enqueuedBit_getLsbD_one : enqueuedBit.getLsbD 1 = true := by decide

theorem DeviceState.enqueueCommand_enqueued (d : DeviceState) (v : Word) : (d.enqueueCommand v).enqueued = true :=
  enqueuedBit_getLsbD_one

theorem exec_keeps_enqueued (h : exec i s = .next t) (before : s.device.enqueued = true) :
    t.device.enqueued = true := by
  by_cases same : t.device.statusFlags = s.device.statusFlags
  · rw [DeviceState.enqueued, same]; exact before
  · obtain ⟨v, -, enqueued⟩ := exec_changes_status h same
    rw [enqueued]
    exact s.device.enqueueCommand_enqueued v

end Kept

end Sys2Proof.Machine
end

section
/-! The statements on writes (41_write.md): the five rows, the decode without a gate, and what a write stores. -/

namespace Sys2Proof.Proofs.Write

open Sys2Proof Sys2Proof.Machine

/-- Settles O14: such an offset names no register, so the write changes at most what was last yielded, and no later
event reads that. -/
theorem writeUnknownIsIgnored : Obligations.WriteUnknownIsIgnored := by
  intro off notId notInit notCmd notIntStatus
  have namesNone : offsetNamesRegister off = false :=
    offsetNamesRegister_eq_false_iff.mpr ⟨notId, notInit, notCmd, notIntStatus⟩
  have unknown : decodeOffset off = .unknown := decodeOffset_of_names_none namesNone
  refine ⟨decodeAccess_write_of_unknown unknown, fun inRegion v => ?_, fun s v => exec_ignored_write rfl rfl rfl s,
    fun s v size n rest => ?_⟩
  · have wf : (Instr.wrUnknown off v).wf = true := unknownOffsetOk_iff.mpr ⟨inRegion, namesNone⟩
    exact encode_write_and_back wf rfl
  · have noEffect : step { s with pending := .access (.write off size v) :: rest } =
        .next { s with pending := rest, response := none } :=
      (step_pending_cons s rest _).trans (acceptAccess_write_of_unknown unknown size v { s with pending := rest })
    exact ⟨_, noEffect, responses_ignores_response n { s with pending := rest } none⟩

/-- Settles O10: the row has no effect on the block, so an enabled identifier read after it yields what one before it
would. -/
theorem writeIdIsIgnored : Obligations.WriteIdIsIgnored := by
  refine ⟨fun _ _ => rfl, fun v => encode_write_and_back (i := .wrId v) rfl rfl,
    fun s v => exec_ignored_write rfl rfl rfl s, fun s t v ident en written => ?_⟩
  cases written
  exact exec_rdId_of_id ident en

/-- Settles O11: the value becomes the enable register, whose bit 0 is the gate. -/
theorem writeInitReplacesTheEnableRegister : Obligations.WriteInitReplacesTheEnableRegister := by
  have gate : ∀ (s t : State) (v : Word), exec (.wrInit v) s = .next t → t.device.enabled = v.getLsbD 0 := by
    intro s t v written
    cases written
    rfl
  refine ⟨fun _ _ => rfl, fun v => encode_write_and_back (i := .wrInit v) rfl rfl, fun _ _ => rfl, gate,
    fun s t written => ?_, fun s t written => ⟨?_, ?_⟩, fun s t ident written => ?_⟩
  · exact (gate s t _ written).trans (by decide)
  · exact (gate s t _ written).trans (by decide)
  · cases written
    rfl
  · have en : t.device.enabled = true := (gate s t _ written).trans (by decide)
    have sameId : t.device.id = 0x0000F001#32 := (exec_keeps_id written).trans ident
    exact exec_rdId_of_id sameId en

/-- Settles O12: the three fields are assigned whatever they held, which is PENDING, and the gate is as before, so a
status read of a disabled device does not reach the line. -/
theorem writeCmdStoresSetsStatusAndAsserts : Obligations.WriteCmdStoresSetsStatusAndAsserts := by
  refine ⟨fun _ _ => rfl, fun v => encode_write_and_back (i := .wrCmd v) rfl rfl, fun _ _ => rfl, ?_, ?_, ?_⟩
  · intro s t v written
    cases written
    exact DeviceState.fsm_eq_pending_iff.mpr ⟨rfl, rfl⟩
  · intro s t u v w first second
    cases first
    cases second
    rfl
  · intro s t u v disabled written statusRead
    have stillDisabled : t.device.enabled = false := by cases written; exact disabled
    have high : t.device.interruptAsserted = true := by cases written; rfl
    cases (exec_read_disabled rfl stillDisabled).symm.trans statusRead
    exact ⟨rfl, high⟩

/-- Settles O13: the row has no effect on the block; of all rows, only an enabled status read lowers the line, and the
one that assigns the status sets ENQ. -/
theorem writeIntStatusIsIgnored : Obligations.WriteIntStatusIsIgnored :=
  ⟨fun _ _ => rfl, fun v => encode_write_and_back (i := .wrIntStatus v) rfl rfl,
    fun s _ => exec_ignored_write rfl rfl rfl s, fun _ _ _ => exec_lowers_line, fun _ _ _ => exec_keeps_enqueued⟩

/-- Settles O16: a write does what the decoder's target of the offset says, and the target of each offset is known. -/
theorem writeDecodesWithoutGate : Obligations.WriteDecodesWithoutGate := by
  intro off size value s
  rw [exec_decodeAccess_write]
  obtain ⟨rfl, -⟩ | ⟨rfl, -⟩ | ⟨rfl, -⟩ | ⟨rfl, -⟩ | ⟨namesNone, unknown⟩ := decodeOffset_cases off
  case inr.inr.inr.inr =>
    obtain ⟨-, notInit, notCmd, -⟩ := offsetNamesRegister_eq_false_iff.mp namesNone
    rw [DeviceState.write_of_unknown unknown, if_neg notInit, if_neg notCmd]
  all_goals rfl

/-- Settles O19: WR_INIT stores its operand in one field, WR_CMD its operand and the constant in two, and the other
three write rows store nothing. -/
theorem everyWriteStoresItsOperandOrTheConstant : Obligations.EveryWriteStoresItsOperandOrTheConstant := by
  intro i s write
  cases i with
  | wrInit v => exact ⟨_, rfl, rfl, .inr rfl, .inl rfl, .inl rfl, rfl⟩
  | wrCmd v => exact ⟨_, rfl, rfl, .inl rfl, .inr rfl, .inr rfl, rfl⟩
  | wrId _ | wrIntStatus _ | wrUnknown _ _ => exact ⟨_, rfl, rfl, .inl rfl, .inl rfl, .inl rfl, rfl⟩
  | rdId | rdInit | rdCmd | rdIntStatus | rdUnknown _ => cases write

end Sys2Proof.Proofs.Write
end

section
/-! What the proofs on exceptions share: what a serial host's next step answers, the line a transaction raises or keeps,
the state machine after a transaction, the trace event, and the gate. -/

namespace Sys2Proof.Machine

/-! ## Progress of a serial host -/

section Progress

variable {s t : State} {e : HostEvent} {rest : List HostEvent}

theorem exec_answers (i : Instr) (s : State) : ∃ t, exec i s = .next t := by
  obtain ⟨t, ran, -⟩ := exec_device_eq i s
  exact ⟨t, ran⟩

theorem acceptAccess_answers (a : Access) (s : State) : ∃ t, acceptAccess a s = .next t := by
  obtain inReset | released := Bool.eq_false_or_eq_true s.resetInput
  · exact ⟨_, acceptAccess_inReset inReset⟩
  · rw [acceptAccess_accepted released]
    exact exec_answers (decodeAccess a) s

/-- Of the host's events only an overlap stops the machine (20_memory.md R43). -/
theorem runEvent_answers_of_serial (serial : serialHost (e :: rest) = true) (s : State) :
    ∃ t, runEvent e s = .next t := by
  cases e with
  | access a => exact acceptAccess_answers a s
  | bus b =>
    cases routed : routeBus b with
    | some a => rw [runEvent_bus_of_some s routed]; exact acceptAccess_answers a s
    | none => exact ⟨_, runEvent_bus_of_none s routed⟩
  | construct | resetInput _ => exact ⟨_, rfl⟩
  | overlap _ _ => cases serial

theorem runEvent_keeps_pending (h : runEvent e s = .next t) : t.pending = s.pending := by
  obtain rfl | ⟨a, -, -, executed⟩ | ⟨-, rfl⟩ | ⟨asserted, -, rfl⟩ := runEvent_cases h
  · rfl
  · obtain ⟨-, samePending⟩ := exec_boundary executed
    exact samePending
  · rfl
  · cases asserted <;> rfl

theorem serialHost_tail (serial : serialHost (e :: rest) = true) : serialHost rest = true := by
  cases e with
  | overlap _ _ => cases serial
  | access _ | bus _ | construct | resetInput _ => exact serial

/-- A serial host's step answers a next state, and what is left of its events is serial. -/
theorem step_of_serial (serial : serialHost s.pending = true) :
    ∃ t, step s = .next t ∧ serialHost t.pending = true := by
  cases pending : s.pending with
  | nil => exact ⟨s, step_of_empty pending, serial⟩
  | cons e rest =>
    rw [pending] at serial
    obtain ⟨t, ran⟩ := runEvent_answers_of_serial serial { s with pending := rest }
    refine ⟨t, (step_of_event pending).trans ran, ?_⟩
    rw [runEvent_keeps_pending ran]
    exact serialHost_tail serial

end Progress

/-! ## The line -/

section Line

variable {i : Instr} {s t : State}

/-- Only a command write raises the line (60_exceptions.md R72). -/
theorem exec_raises_line (h : exec i s = .next t) (low : s.device.interruptAsserted = false)
    (high : t.device.interruptAsserted = true) : ∃ v, i = .wrCmd v := by
  obtain unchanged | ⟨-, -, lineLow⟩ | ⟨v, -, stored⟩ | ⟨v, command, -⟩ := exec_device_cases h
  · rw [unchanged, low] at high; cases high
  · rw [lineLow] at high; cases high
  · rw [stored, DeviceState.storeEnable_interruptAsserted, low] at high; cases high
  · exact ⟨v, command⟩

theorem exec_rdIntStatus_eq (en : s.device.enabled = true) :
    exec .rdIntStatus s = .next { s with device := s.device.deassertLine
                                         response := some s.device.statusFlags } :=
  congrArg Host.Outcome.next (gatedRead_enabled en)

/-- Command writes do not stack: any number of them do what the last one does alone (60_exceptions.md R75). -/
theorem execAll_commands (vs : List Word) (v : Word) (s : State) :
    execAll ((vs ++ [v]).map Instr.wrCmd) s = exec (.wrCmd v) s := by
  induction vs generalizing s with
  | nil => rfl
  | cons w vs ih => exact ih (ungatedWrite (.enqueueCommand w) s)

end Line

/-! ## The state machine -/

section StateMachine

variable {d : DeviceState} {st : Fsm} {i : Instr} {s t : State}

theorem DeviceState.storeEnable_fsm (d : DeviceState) (v : Word) : (d.storeEnable v).fsm = d.fsm := rfl

theorem DeviceState.enqueueCommand_fsm (d : DeviceState) (v : Word) : (d.enqueueCommand v).fsm = some .pending :=
  DeviceState.fsm_eq_pending_iff.mpr ⟨rfl, rfl⟩

theorem DeviceState.construct_fsm : DeviceState.construct.fsm = some .idle :=
  DeviceState.fsm_eq_idle_iff.mpr ⟨rfl, rfl⟩

/-- The two status values behind the three states (60_exceptions.md R77). -/
theorem DeviceState.statusFlags_of_fsm (inState : d.fsm = some st) :
    d.statusFlags = if st ≠ .idle then 0x2#32 else 0x0#32 := by
  cases st with
  | idle => exact (DeviceState.fsm_eq_idle_iff.mp inState).1
  | pending => exact (DeviceState.fsm_eq_pending_iff.mp inState).1
  | acked => exact (DeviceState.fsm_eq_acked_iff.mp inState).1

/-- Lowering the line is the table's enabled status read. -/
theorem DeviceState.deassertLine_fsm (inState : d.fsm = some st) :
    d.deassertLine.fsm = some (fsmNext true st .statusRead) := by
  have status := DeviceState.statusFlags_of_fsm inState
  cases st with
  | idle => exact DeviceState.fsm_eq_idle_iff.mpr ⟨status, rfl⟩
  | pending | acked => exact DeviceState.fsm_eq_acked_iff.mpr ⟨status, rfl⟩

/-- Each transaction takes the state machine where its table says (60_exceptions.md R78). -/
theorem exec_fsm (h : exec i s = .next t) (inState : s.device.fsm = some st) :
    t.device.fsm = some (fsmNext s.device.enabled st (fsmEventOf i)) := by
  cases i with
  | rdIntStatus =>
    cases en : s.device.enabled with
    | true =>
      cases (exec_rdIntStatus_eq en).symm.trans h
      exact DeviceState.deassertLine_fsm inState
    | false =>
      rw [exec_read_keeps_block h rfl (.inr en)]
      exact inState
  | wrCmd v => cases h; exact s.device.enqueueCommand_fsm v
  | rdId | rdInit | rdCmd | rdUnknown _ =>
    rw [exec_read_keeps_block h rfl (.inl nofun)]
    exact inState
  | wrInit v => cases h; exact (s.device.storeEnable_fsm v).trans inState
  | wrId _ | wrIntStatus _ | wrUnknown _ _ => cases h; exact inState

/-- A status read yields the status of the state it finds, on the open side of the gate (60_exceptions.md R78). -/
theorem exec_rdIntStatus_response (h : exec .rdIntStatus s = .next t) (inState : s.device.fsm = some st) :
    t.response = some (if s.device.enabled = true ∧ st ≠ .idle then 0x2#32 else 0x0#32) := by
  cases en : s.device.enabled with
  | true =>
    obtain ⟨-, yielded⟩ := exec_rdIntStatus_enabled en h
    rw [yielded, DeviceState.statusFlags_of_fsm inState]
    simp only [true_and]
  | false =>
    cases (exec_read_disabled rfl en).symm.trans h
    simp

theorem exec_enableFlags (h : exec i s = .next t) :
    t.device.enableFlags = (enableOf i).getD s.device.enableFlags := by
  obtain ⟨u, ran, block⟩ := exec_device_eq i s
  cases h.symm.trans ran
  rw [block]

/-- Along a history the state machine is the fold of its table. -/
theorem execAll_fsm (is : List Instr) (s : State) (inState : s.device.fsm = some st) :
    ∃ t, execAll is s = .next t ∧ t.device.fsm = some (fsmAfter is s.device.enableFlags st) := by
  induction is generalizing s st with
  | nil => exact ⟨s, rfl, inState⟩
  | cons i is ih =>
    obtain ⟨u, first⟩ := exec_answers i s
    obtain ⟨t, later, folded⟩ := ih u (exec_fsm first inState)
    refine ⟨t, (execAll_cons_of_next first).trans later, ?_⟩
    rw [folded, exec_enableFlags first]
    rfl

end StateMachine

/-! ## The trace event and the gate -/

section Gate

variable {i : Instr} {s t : State}

theorem exec_write_traceEvents (h : exec i s = .next t) (write : i.isWrite = true) : t.traceEvents = s.traceEvents := by
  cases i with
  | wrId _ | wrInit _ | wrCmd _ | wrIntStatus _ | wrUnknown _ _ => cases h; rfl
  | rdId | rdInit | rdCmd | rdIntStatus | rdUnknown _ => cases write

/-- A transaction emits no trace event unless it is a read of a disabled device (60_exceptions.md R86). -/
theorem exec_traceEvents_of_not_disabled_read (h : exec i s = .next t)
    (other : ¬ (i.isWrite = false ∧ s.device.enabled = false)) : t.traceEvents = s.traceEvents := by
  cases write : i.isWrite with
  | true => exact exec_write_traceEvents h write
  | false =>
    have en : s.device.enabled = true := (Bool.not_eq_false _).mp fun disabled => other ⟨write, disabled⟩
    obtain ⟨target, effect, ran⟩ := exec_read_eq_gatedRead write s
    cases h.symm.trans ran
    rw [gatedRead_enabled en]

/-- Only WR_INIT enables or disables (60_exceptions.md R87). -/
theorem exec_changes_enabled (h : exec i s = .next t) (changed : t.device.enabled ≠ s.device.enabled) :
    ∃ v, i = .wrInit v := by
  obtain unchanged | ⟨-, -, lineLow⟩ | ⟨v, enable, -⟩ | ⟨v, -, enqueued⟩ := exec_device_cases h
  · exact absurd (by rw [unchanged]) changed
  · exact absurd (by rw [lineLow]; rfl) changed
  · exact ⟨v, enable⟩
  · exact absurd (by rw [enqueued]; rfl) changed

end Gate

end Sys2Proof.Machine
end

section
/-! The statements on exceptions (60_exceptions.md): a serial host meets no stop, the line, the command/interrupt
state machine, and the two operating conditions. -/

namespace Sys2Proof.Proofs.Exceptions

open Sys2Proof Sys2Proof.Machine

/-- Settles O39, by induction on the number of steps: the first answers a state whose events are serial again. -/
theorem serialHostsNeverSeeAStop : Obligations.SerialHostsNeverSeeAStop := by
  intro n
  induction n with
  | zero => exact fun s _ => ⟨s, rfl⟩
  | succ n ih =>
    intro s serial
    obtain ⟨u, first, stillSerial⟩ := step_of_serial serial
    obtain ⟨t, later⟩ := ih u stillSerial
    exact ⟨t, (run_succ_of_next first).trans later⟩

/-- Settles O44: a transaction follows its row of the table, a list folds the table, and the constructed block is
IDLE. -/
theorem stateMachineFollowsItsTable : Obligations.StateMachineFollowsItsTable := by
  refine ⟨fun i s st inState => ?_, fun is s _ inState => execAll_fsm is s inState, fun s rest oldest => ?_⟩
  · obtain ⟨t, ran⟩ := exec_answers i s
    refine ⟨t, ran, exec_fsm ran inState, ?_⟩
    rintro rfl
    exact exec_rdIntStatus_response ran inState
  · exact ⟨_, step_of_event oldest, DeviceState.construct_fsm⟩

/-- Settles O45: of the things a step can do to the block, leaving it and constructing it raise no line, and of the
transactions only a command write does. -/
theorem onlyCommandWritesAssertTheLine : Obligations.OnlyCommandWritesAssertTheLine := by
  refine ⟨fun s t stepped low high => ?_, fun s v => ⟨_, rfl, rfl⟩⟩
  unfold DeviceState.irqLine at low high
  obtain unchanged | ⟨e, rest, oldest, ⟨a, u, presents, sameBlock, executed⟩ | ⟨-, constructed⟩⟩ :=
    step_device_cases stepped
  · rw [unchanged, low] at high; cases high
  · obtain ⟨v, command⟩ := exec_raises_line executed (by rwa [sameBlock]) high
    exact ⟨e, rest, a, v, oldest, command, presents⟩
  · rw [constructed] at high; cases high

/-- Settles O47: any number of command writes do what the last alone does, and one enabled status read after it yields
0x2 and lowers the line. -/
theorem interruptsDoNotStack : Obligations.InterruptsDoNotStack := by
  refine ⟨fun i s t h high other => ?_, fun vs v s en => ?_⟩
  · by_contra notHigh
    obtain ⟨statusRead, -⟩ := exec_lowers_line h high ((Bool.not_eq_true _).mp notHigh)
    exact other statusRead
  · have stillEnabled : (ungatedWrite (.enqueueCommand v) s).device.enabled = true := en
    exact ⟨_, _, execAll_commands vs v s, exec_rdIntStatus_eq stillEnabled, rfl, rfl, rfl⟩

/-- Settles O22: a read of a disabled device takes the gated branch, and no other transaction emits the event. -/
theorem onlyDisabledReadsEmitTheTrace : Obligations.OnlyDisabledReadsEmitTheTrace := by
  intro i s t h
  by_cases gated : i.isWrite = false ∧ s.device.enabled = false
  · obtain ⟨read, disabled⟩ := gated
    cases (exec_read_disabled read disabled).symm.trans h
    exact ⟨by rw [if_pos ⟨read, disabled⟩], fun _ => ⟨rfl, rfl⟩⟩
  · have silent := exec_traceEvents_of_not_disabled_read h gated
    exact ⟨by rw [if_neg gated]; exact silent, fun emitted => absurd silent emitted⟩

/-- Settles O23: reset clears the enable register, a read of a disabled device takes the gated branch, writes pass no
gate, and only WR_INIT reaches bit 0 of the enable register. -/
theorem disablingGatesReadsAndKeepsState : Obligations.DisablingGatesReadsAndKeepsState := by
  refine ⟨by decide, fun i s disabled read => ?_, fun s v _ => ?_, fun s off on offClear onSet => ?_,
    fun i s t => exec_changes_enabled⟩
  · exact ⟨_, exec_read_disabled read disabled, rfl, rfl⟩
  · exact ⟨_, rfl, rfl, rfl⟩
  · exact ⟨_, _, rfl, rfl, offClear, onSet, rfl, rfl⟩

/-- Settles O35: the machine waits, so the state is the same one. -/
theorem stepWaitsWithNothingPending : Obligations.StepWaitsWithNothingPending := fun _ => step_of_empty

/-- Settles O46: a transaction that lowers the line is a status read past the gate, and that read lowers it. -/
theorem onlyEnabledStatusReadsDeassertTheLine : Obligations.OnlyEnabledStatusReadsDeassertTheLine :=
  ⟨fun _ _ _ => exec_lowers_line, fun _ en => ⟨_, exec_rdIntStatus_eq en, rfl⟩⟩

/-- Settles O51: in PENDING the status is 0x2; after the enable write both reads pass the gate, neither changes what the
other yields, and the status read lowers the line. -/
theorem acknowledgeProtocolDeliversTheCommand : Obligations.AcknowledgeProtocolDeliversTheCommand := by
  intro s e inPending en
  obtain ⟨status, -⟩ := DeviceState.fsm_eq_pending_iff.mp inPending
  have yields : some s.device.statusFlags = some 0x00000002#32 := congrArg some status
  have acked : (s.device.storeEnable e).deassertLine.fsm = some .acked :=
    DeviceState.fsm_eq_acked_iff.mpr ⟨status, rfl⟩
  exact ⟨⟨_, _, _, rfl, exec_rdIntStatus_eq en, exec_rdCmd_enabled en, yields, rfl, acked⟩,
    ⟨_, _, _, rfl, exec_rdCmd_enabled en, exec_rdIntStatus_eq en, rfl, yields, acked⟩⟩

end Sys2Proof.Proofs.Exceptions
end

section
/-! What the proofs on reset and hazards share: the step on construction, on the reset input and on an access while it
is asserted, and what a transaction keeps of the status, the command buffer and a disabled block. -/

namespace Sys2Proof.Machine

/-! ## Steps that construct, and steps in reset -/

section Reset

variable {s t : State} {rest : List HostEvent}

theorem step_of_construct (oldest : s.pending = .construct :: rest) :
    step s = .next { s with device := DeviceState.construct, response := none, pending := rest } :=
  step_of_event oldest

theorem step_construct_device (oldest : s.pending = .construct :: rest) (stepped : step s = .next t) :
    t.device = DeviceState.construct := by
  cases (step_of_construct oldest).symm.trans stepped
  rfl

theorem driveResetInput_device (b : Bool) (s : State) :
    (driveResetInput b s).device = if b then DeviceState.construct else s.device := by
  cases b <;> rfl

theorem driveResetInput_resetInput (b : Bool) (s : State) : (driveResetInput b s).resetInput = b := by
  cases b <;> rfl

/-- Driving the reset input sets its level, and constructs the block when it asserts it (70_reset_and_hazards.md R90). -/
theorem step_of_resetInput {b : Bool} (oldest : s.pending = .resetInput b :: rest) :
    ∃ t, step s = .next t ∧ t.resetInput = b ∧ t.device = if b then DeviceState.construct else s.device :=
  ⟨_, step_of_event oldest, driveResetInput_resetInput b _, driveResetInput_device b _⟩

/-- An access while the reset input is asserted is dropped (log entry 10). -/
theorem step_of_access_inReset {a : Access} (oldest : s.pending = .access a :: rest) (inReset : s.resetInput = true) :
    step s = .next { s with response := none, pending := rest } :=
  calc step s
      = acceptAccess a { s with pending := rest } := step_of_event oldest
    _ = .next { s with response := none, pending := rest } := acceptAccess_inReset inReset

end Reset

/-! ## What no transaction resets -/

section NotReset

variable {i : Instr} {s t : State}

theorem enqueuedBit_ne_zero : enqueuedBit ≠ 0 := by decide

/-- No transaction returns the status to 0: the only one that changes it assigns ENQ (10_state.md R22). -/
theorem exec_status_zero (h : exec i s = .next t) (zero : t.device.statusFlags = 0) : s.device.statusFlags = 0 := by
  by_contra notZero
  obtain ⟨v, -, enqueued⟩ := exec_changes_status h fun same => notZero (same.symm.trans zero)
  rw [enqueued] at zero
  exact enqueuedBit_ne_zero zero

/-- Only a command write changes the command buffer, to the value it writes (10_state.md R20). -/
theorem exec_changes_commandBuffer (h : exec i s = .next t)
    (changed : t.device.commandBuffer ≠ s.device.commandBuffer) : i = .wrCmd t.device.commandBuffer := by
  obtain unchanged | ⟨-, -, lineLow⟩ | ⟨v, -, stored⟩ | ⟨v, command, enqueued⟩ := exec_device_cases h
  · exact absurd (by rw [unchanged]) changed
  · exact absurd (by rw [lineLow, DeviceState.deassertLine_commandBuffer]) changed
  · exact absurd (by rw [stored, DeviceState.storeEnable_commandBuffer]) changed
  · rw [enqueued, DeviceState.enqueueCommand_commandBuffer]; exact command

end NotReset

/-! ## A disabled block with the line high -/

section Hazard

variable {i : Instr} {s t : State}

theorem exec_keeps_line_of_disabled (h : exec i s = .next t) (disabled : s.device.enabled = false)
    (high : s.device.irqLine = true) : t.device.irqLine = true := by
  by_contra low
  obtain ⟨-, en⟩ := exec_lowers_line h high ((Bool.not_eq_true _).mp low)
  exact absurd (disabled.symm.trans en) Bool.false_ne_true

/-- Only an enable write with bit 0 set enables a disabled block (60_exceptions.md R87). -/
theorem exec_keeps_disabled (h : exec i s = .next t) (disabled : s.device.enabled = false)
    (noEnable : ∀ v, i = .wrInit v → v.getLsbD 0 = false) : t.device.enabled = false := by
  by_cases same : t.device.enabled = s.device.enabled
  · exact same.trans disabled
  · obtain ⟨v, rfl⟩ := exec_changes_enabled h same
    cases h
    exact noEnable v rfl

end Hazard

end Sys2Proof.Machine
end

section
/-! The statements on reset and hazards (70_reset_and_hazards.md): construction and what it leaves, the reset input, and
the disabled-acknowledge hazard. -/

namespace Sys2Proof.Proofs.Reset

open Sys2Proof Sys2Proof.Machine

/-- Settles O52, by induction on the transactions: the first leaves the line high, since only a status read that passes
the gate lowers it, and leaves the block disabled, since only INIT opens the gate. -/
theorem disabledDeviceKeepsTheLineAsserted : Obligations.DisabledDeviceKeepsTheLineAsserted := by
  intro is
  induction is with
  | nil => exact fun s disabled high _ => ⟨s, rfl, high, disabled⟩
  | cons i is ih =>
    intro s disabled high noEnable
    obtain ⟨u, first⟩ := exec_answers i s
    have stillHigh : u.device.irqLine = true := exec_keeps_line_of_disabled first disabled high
    have stillDisabled : u.device.enabled = false :=
      exec_keeps_disabled first disabled fun v enable => noEnable v (enable ▸ List.mem_cons_self)
    obtain ⟨t, later, kept⟩ :=
      ih u stillDisabled stillHigh fun v written => noEnable v (List.mem_cons_of_mem i written)
    exact ⟨t, (execAll_cons_of_next first).trans later, kept⟩

/-- Settles O1: the machine is reset with the constructed block, and the step puts it in place of whatever stood
before. -/
theorem constructionSetsEveryField : Obligations.ConstructionSetsEveryField :=
  ⟨rfl, fun _ _ oldest => ⟨_, step_of_construct oldest, rfl⟩⟩

/-- Settles O2: the asserted reset input constructs; of the transactions, only a command write changes the status, to
0x2, and the command buffer. -/
theorem constructionIsTheOnlyReset : Obligations.ConstructionIsTheOnlyReset := by
  refine ⟨fun s rest oldest => ?_, fun _ => rfl, fun i s t h => ?_⟩
  · obtain ⟨t, stepped, -, constructed⟩ := step_of_resetInput oldest
    exact ⟨t, stepped, constructed⟩
  · exact ⟨exec_status_zero h, exec_changes_commandBuffer h⟩

/-- Settles O3: whatever block the step finds it leaves the constructed one, which is disabled, low and in IDLE. -/
theorem constructionLeavesDisabledIdleAndForgets : Obligations.ConstructionLeavesDisabledIdleAndForgets := by
  intro s t rest oldest stepped
  rw [step_construct_device oldest stepped]
  exact ⟨by decide, rfl, DeviceState.construct_fsm, fun _ _ _ => step_construct_device⟩

/-- Settles O37: in reset an access is taken off the pending events and yields nothing; the reset input takes the level
it is driven to. -/
theorem resetInputHoldsOffAccesses : Obligations.ResetInputHoldsOffAccesses :=
  ⟨fun _ _ _ oldest inReset => ⟨_, step_of_access_inReset oldest inReset, rfl, rfl, rfl, rfl⟩,
    fun _ _ _ oldest => step_of_resetInput oldest⟩

end Sys2Proof.Proofs.Reset
end

section
/-! What the proofs on the reference port mapping share: a run cut in two, the block and the trace port over one cycle,
and the host events a cycle stands for. -/

namespace Sys2Proof.Machine

/-! ## Runs and the host's events -/

section Runs

variable {s t : State} {m n : Nat}

/-- A run of `m + n` steps is a run of `m` and then a run of `n`. -/
theorem run_add_of_next (h : Host.Core.run core m s = .next t) :
    Host.Core.run core (m + n) s = Host.Core.run core n t := by
  induction m generalizing s with
  | zero => cases h; rw [Nat.zero_add]
  | succ m ih =>
    obtain ⟨u, first, later⟩ := run_succ_cases h
    rw [Nat.succ_add, run_succ_of_next first, ih later]

theorem driveResetInput_traceEvents (b : Bool) (s : State) : (driveResetInput b s).traceEvents = s.traceEvents := by
  cases b <;> rfl

theorem driveResetInput_pending (b : Bool) (s : State) : (driveResetInput b s).pending = s.pending := by
  cases b <;> rfl

theorem driveResetInput_withPending (b : Bool) (s : State) (events : List HostEvent) :
    { driveResetInput b s with pending := events } = driveResetInput b { s with pending := events } := by
  cases b <;> rfl

end Runs

/-! ## One cycle -/

section Cycle

variable {p : PortIn} {d : DeviceState} {s : PortState}

theorem PortIn.nextDevice_inReset (inReset : p.rst = true) : p.nextDevice d = DeviceState.construct := by
  simp [PortIn.nextDevice, inReset]

theorem PortIn.nextDevice_idle (idle : p.reqValid = false) :
    p.nextDevice d = if p.rst then DeviceState.construct else d := by
  simp [PortIn.nextDevice, idle]

theorem PortIn.nextDevice_write (released : p.rst = false) (valid : p.reqValid = true) (write : p.reqWrite = true) :
    p.nextDevice d = d.write p.reqOff.toNat p.reqWdata := by
  simp [PortIn.nextDevice, released, valid, write]

theorem PortIn.nextDevice_read (released : p.rst = false) (valid : p.reqValid = true) (read : p.reqWrite = false) :
    p.nextDevice d = (d.read p.reqOff.toNat).next := by
  simp [PortIn.nextDevice, released, valid, read]

theorem PortIn.acceptedRead_read (released : p.rst = false) (valid : p.reqValid = true) (read : p.reqWrite = false) :
    p.acceptedRead d = some (d.read p.reqOff.toNat) := by
  simp [PortIn.acceptedRead, released, valid, read]

theorem PortIn.acceptedRead_eq_none (noRead : p.rst = true ∨ p.reqValid = false ∨ p.reqWrite = true) :
    p.acceptedRead d = none := by
  obtain inReset | idle | write := noRead
  · simp [PortIn.acceptedRead, inReset]
  · simp [PortIn.acceptedRead, idle]
  · simp [PortIn.acceptedRead, write]

theorem PortIn.producedRdata_read (released : p.rst = false) (valid : p.reqValid = true) (read : p.reqWrite = false) :
    p.producedRdata d = some (d.read p.reqOff.toNat).value := by
  rw [PortIn.producedRdata, PortIn.acceptedRead_read released valid read]; rfl

theorem portCycle_trace_read (released : p.rst = false) (valid : p.reqValid = true) (read : p.reqWrite = false) :
    (portCycle p s).1.traceDisabledRead = (s.device.read p.reqOff.toNat).trace := by
  simp [portCycle, PortIn.acceptedRead_read released valid read]

theorem portCycle_trace_eq_false (noRead : p.rst = true ∨ p.reqValid = false ∨ p.reqWrite = true) :
    (portCycle p s).1.traceDisabledRead = false := by
  simp [portCycle, PortIn.acceptedRead_eq_none noRead]

theorem portCycle_device (p : PortIn) (s : PortState) : (portCycle p s).2.device = p.nextDevice s.device := rfl

/-- The port shows the oldest of the registered responses and the one the cycle produces, and keeps the others. -/
theorem portCycle_rspRdata_cons (p : PortIn) (s : PortState) :
    (portCycle p s).1.rspRdata :: (portCycle p s).2.rspPipe = s.rspPipe ++ [p.producedRdata s.device] := by
  cases pipe : s.rspPipe <;> simp [portCycle, pipe]

/-- Within a cycle without reset the port shows the registered line. -/
theorem portCycle_irq (released : p.rst = false) : (portCycle p s).1.irq = s.device.interruptAsserted := by
  simp [portCycle, PortIn.shownDevice, released]

end Cycle

/-! ## Several cycles -/

theorem portRun_cons_outputs (p : PortIn) (ps : List PortIn) (s : PortState) :
    (portRun (p :: ps) s).1 = (portCycle p s).1 :: (portRun ps (portCycle p s).2).1 := rfl

/-- The cycles that raise the trace port, the first counted by its own port. -/
theorem portRun_trace_cons (p : PortIn) (ps : List PortIn) (s : PortState) :
    ((portRun (p :: ps) s).1.filter PortOut.traceDisabledRead).length =
      (portCycle p s).1.traceDisabledRead.toNat +
        ((portRun ps (portCycle p s).2).1.filter PortOut.traceDisabledRead).length := by
  rw [portRun_cons_outputs, List.filter_cons]
  cases (portCycle p s).1.traceDisabledRead with
  | true => exact Nat.add_comm ..
  | false => exact (Nat.zero_add _).symm

/-- The read data shown is the registered responses and then what the cycles produce, in order (92_eei_decisions.md
D8). -/
theorem portRun_rspRdata (ps : List PortIn) (s : PortState) :
    (portRun ps s).1.map PortOut.rspRdata = (s.rspPipe ++ portProduced ps s.device).take ps.length := by
  induction ps generalizing s with
  | nil => rfl
  | cons p ps ih =>
    calc (portRun (p :: ps) s).1.map PortOut.rspRdata
        = (portCycle p s).1.rspRdata ::
            ((portCycle p s).2.rspPipe ++ portProduced ps (p.nextDevice s.device)).take ps.length :=
          congrArg (_ :: ·) (ih (portCycle p s).2)
      _ = ((portCycle p s).1.rspRdata :: (portCycle p s).2.rspPipe ++
            portProduced ps (p.nextDevice s.device)).take (ps.length + 1) := rfl
      _ = (s.rspPipe ++ portProduced (p :: ps) s.device).take (ps.length + 1) := by
          rw [portCycle_rspRdata_cons, List.append_assoc]; rfl

/-! ## The host events of one cycle -/

section Events

/-- The access a cycle requests. -/
def PortIn.request (p : PortIn) : Access :=
  if p.reqWrite then .write p.reqOff.toNat p.reqSize p.reqWdata else .read p.reqOff.toNat p.reqSize

theorem PortIn.events_eq (p : PortIn) :
    p.events = .resetInput p.rst :: if p.reqValid then [.access p.request] else [] := rfl

variable {p : PortIn} {q : PortState} {s : State}

/-- The requested access finds the reset input at the cycle's level; accepted or dropped, it leaves the block the cycle
leaves. -/
theorem acceptAccess_request (valid : p.reqValid = true) (same : q.device = s.device) :
    ∃ t, acceptAccess p.request (driveResetInput p.rst s) = .next t ∧ t.device = (portCycle p q).2.device ∧
      t.traceEvents = s.traceEvents + (portCycle p q).1.traceDisabledRead.toNat := by
  rw [portCycle_device]
  cases rst : p.rst with
  | true =>
    rw [PortIn.nextDevice_inReset rst, portCycle_trace_eq_false (.inl rst)]
    exact ⟨_, acceptAccess_inReset (driveResetInput_resetInput true s), rfl, rfl⟩
  | false =>
    rw [acceptAccess_accepted (driveResetInput_resetInput false s), PortIn.request]
    obtain ⟨execRead, execWrite⟩ :=
      Proofs.Read.meaningsAreTheTwoPureFunctions p.reqOff.toNat p.reqSize p.reqWdata (driveResetInput false s)
    cases write : p.reqWrite with
    | true =>
      rw [PortIn.nextDevice_write rst valid write, portCycle_trace_eq_false (.inr (.inr write)), same]
      exact ⟨_, execWrite, rfl, rfl⟩
    | false =>
      rw [PortIn.nextDevice_read rst valid write, portCycle_trace_read rst valid write, same]
      exact ⟨_, execRead, rfl, rfl⟩

/-- Taking the events of one cycle leaves the block the cycle leaves, one trace event if the cycle raises the trace
port, and the events of the later cycles. -/
theorem run_events (p : PortIn) {rest : List HostEvent} (same : q.device = s.device)
    (pending : s.pending = p.events ++ rest) :
    ∃ t, Host.Core.run core p.events.length s = .next t ∧ t.device = (portCycle p q).2.device ∧
      t.traceEvents = s.traceEvents + (portCycle p q).1.traceDisabledRead.toNat ∧ t.pending = rest := by
  rw [PortIn.events_eq] at pending ⊢
  cases valid : p.reqValid with
  | false =>
    rw [valid] at pending
    refine ⟨_, run_succ_of_next (step_of_event pending), ?_, ?_, driveResetInput_pending ..⟩
    · rw [driveResetInput_device, portCycle_device, PortIn.nextDevice_idle valid, same]
    · rw [driveResetInput_traceEvents, portCycle_trace_eq_false (.inr (.inl valid))]; rfl
  | true =>
    rw [valid] at pending
    have driven := step_of_event pending
    have requested := step_of_event (driveResetInput_pending p.rst { s with pending := .access p.request :: rest })
    rw [driveResetInput_withPending] at requested
    obtain ⟨t, accepted, device, trace⟩ := acceptAccess_request (s := { s with pending := rest }) valid same
    have left : t.pending = rest :=
      (runEvent_keeps_pending (e := .access p.request) accepted).trans (driveResetInput_pending ..)
    exact ⟨t, (run_succ_of_next driven).trans (run_succ_of_next (requested.trans accepted)), device, trace, left⟩

end Events

end Sys2Proof.Machine
end

section
/-! The statements on the reference port mapping (92_eei_decisions.md D8) and on overlapping accesses (D17). -/

namespace Sys2Proof.Proofs.Ports

open Sys2Proof Sys2Proof.Machine

/-- Settles O53, by induction on the cycles: the events of the first leave the block the first cycle leaves, with the
events of the later cycles still pending. -/
theorem portCyclesRefineTheTransactions : Obligations.PortCyclesRefineTheTransactions := by
  intro ps
  induction ps with
  | nil => exact fun s p0 same pending => ⟨s, by rw [pending]; rfl, same.symm, rfl, pending⟩
  | cons p ps ih =>
    intro s p0 same pending
    obtain ⟨u, first, device, trace, laterPending⟩ := run_events (rest := ps.flatMap PortIn.events) p same pending
    obtain ⟨t, later, lastDevice, lastTrace, done⟩ := ih u (portCycle p p0).2 device.symm laterPending
    refine ⟨t, ?_, lastDevice, ?_, done⟩
    · rw [pending, List.flatMap_cons, List.length_append, run_add_of_next first, ← laterPending]
      exact later
    · rw [lastTrace, trace, Nat.add_assoc, portRun_trace_cons]

/-- Settles O54: by induction on the cycles, each shows the head of the registered responses and registers what it
produces; an accepted read's data is what the function read returns, as is its transaction's response. -/
theorem portDataIsTheResponseDelayed : Obligations.PortDataIsTheResponseDelayed := by
  refine ⟨portRun_rspRdata, fun p s released valid read => ?_, fun p q s released => ?_⟩
  · obtain ⟨execRead, -⟩ := Read.meaningsAreTheTwoPureFunctions p.reqOff.toNat p.reqSize p.reqWdata s
    exact ⟨_, execRead, PortIn.producedRdata_read released valid read⟩
  · rw [portCycle_irq released, portCycle_device]

/-- Settles O36: the step hands the oldest event on, and an overlap is refused there. -/
theorem overlappingAccessesAreRefused : Obligations.OverlappingAccessesAreRefused :=
  fun _ _ _ _ => step_of_event

end Sys2Proof.Proofs.Ports
end
